-- ==== Sys2Proof/Word.lean ====
section
/-! DEFINITION. The word types of sub001 CORE: an integer register (00_scope.md R6: `XLEN` = 256), a host window word and a
command word (`CMD_BITS` = 32), a hash cell (10_state.md R34) and a byte. -/
namespace Sys2Proof

/-- A 256-bit register or point coordinate (10_state.md R21, R23, R24). -/
abbrev Word := BitVec 256

/-- A command word, or one word of the host window (20_memory.md R43, 30_encoding.md R55). -/
abbrev Word32 := BitVec 32

/-- A chaining cell of the hash context, or its byte counter (10_state.md R34). -/
abbrev Word64 := BitVec 64

/-- A byte of DBUF (20_memory.md R40). -/
abbrev Byte := BitVec 8

end Sys2Proof
end

