-- ==== Sys2Proof/Syntax.lean ====
section
/-! DEFINITION. The command set as data: one constructor of `Instr` for each of the 52 rows of spec/opcode_table.json
(30_encoding.md R59), its operands in the assembler's order (R65). A register field selects a register file by the command's
opcode and its position (R60); the point and Jacobian files have 8 registers, so their index type has 8 values. -/
namespace Sys2Proof

/-- Index of an integer register `r0`..`r15` (10_state.md R21). -/
abbrev RIdx := Fin 16

/-- Index of an affine point register `a0`..`a7` (10_state.md R23). -/
abbrev AIdx := Fin 8

/-- Index of a Jacobian register `j0`..`j7` (10_state.md R24). -/
abbrev JIdx := Fin 8

/-- Byte offset into DBUF as formats M and B carry it (30_encoding.md R57, R58). -/
abbrev Off := BitVec 12

/-- The hash algorithm selector `alg` (44_hash.md R191). -/
inductive HashAlg where
  | sha256 | sha512 | rmd160 | sha1
deriving DecidableEq, Repr

/-- The loadable curve constants, in the order of their `LDC` index (10_state.md R36). -/
inductive CurveConst where
  | p | n | gx | gy | beta | lambda | sqrtExp | halfN
deriving DecidableEq, Repr

/-- The nonce source of `SIGN` (43_ecdsa.md R175), the document's tagged variant. -/
inductive NonceSrc where
  /-- `src = 0`: the deterministic generator. -/
  | drbg
  /-- `src = 1`: the fixed nonce in `r[c]`. -/
  | fixed (rc : RIdx)
  /-- `src = 2`: `cnt` candidates tabulated at DBUF offset 0. -/
  | table (cnt : BitVec 5)
deriving DecidableEq, Repr

/-- The 52 commands. `rd`, `ra`, … name integer registers, `ad`, `aa`, … affine ones, `jd`, `ja`, … Jacobian ones. -/
inductive Instr where
  -- moves, 46_move.md
  | nop
  | mov (rd ra : RIdx)
  | ldi (rd : RIdx) (imm : Byte)
  | ldc (rd : RIdx) (c : CurveConst)
  | ldbe (rd : RIdx) (off : Off) (len : Byte)
  | stbe (rs : RIdx) (off : Off) (len : Byte)
  | pset (ad : AIdx) (rx ry : RIdx)
  | pgetx (rd : RIdx) (aa : AIdx)
  | pgety (rd : RIdx) (aa : AIdx)
  | pmov (ad aa : AIdx)
  | pldg (ad : AIdx)
  | pinf (ad : AIdx)
  | jmov (jd ja : JIdx)
  -- field-p and order-n arithmetic, 40_field.md
  | addp (rd ra rb : RIdx)
  | subp (rd ra rb : RIdx)
  | mulp (rd ra rb : RIdx)
  | invp (rd ra : RIdx)
  | powp (rd ra rb : RIdx)
  | sqrtp (rd ra : RIdx)
  | redp (rd ra : RIdx)
  | muln (rd ra rb : RIdx)
  | invn (rd ra : RIdx)
  | redn (rd ra : RIdx)
  -- points, 41_point.md
  | padd (ad aa ab : AIdx)
  | pdbl (ad aa : AIdx)
  | pneg (ad aa : AIdx)
  | peq (aa ab : AIdx)
  | pvalid (aa : AIdx)
  | pfromx (ad : AIdx) (rx : RIdx) (odd : Bool)
  | pdec (ad : AIdx) (off : Off) (len : Byte)
  | penc (aa : AIdx) (off : Off) (len : Byte)
  | jfroma (jd : JIdx) (aa : AIdx)
  | jtoa (ad : AIdx) (ja : JIdx)
  | jadd (jd ja jb : JIdx)
  | jdbl (jd ja : JIdx)
  | jneg (jd ja : JIdx)
  -- recoding and scalar multiplication, 42_scalarmul.md
  | wnaf (rd ra : RIdx) (w : Byte)
  | glvsplit (rd ra : RIdx)
  | pendo (ad aa : AIdx)
  | pmul (ad : AIdx) (rk : RIdx) (ab : AIdx) (w : Byte)
  | pmuladd (ad : AIdx) (rk1 : RIdx) (ap1 : AIdx) (rk2 : RIdx) (ap2 : AIdx)
  -- ECDSA, 43_ecdsa.md
  | truncn (rd ra : RIdx) (truncOnly : Bool)
  | drbgk (rd rmsg rkey : RIdx) (iter : Byte)
  | sign (rd rmsg rkey : RIdx) (lowS : Bool) (src : NonceSrc)
  | verify (rmsg rr rs : RIdx) (aq : AIdx)
  -- hash and HMAC, 44_hash.md
  | hinit (alg : HashAlg)
  | hupdate (off len : BitVec 12)
  | hdigest (off : Off)
  | hdigestH256 (off : Off)
  | hdigestH160 (off : Off)
  | hmacinit (alg : HashAlg) (off : Off) (len : Byte)
  | hmacfinal (off : Off)
deriving DecidableEq, Repr

end Sys2Proof
end

