-- ==== Sys2Proof/WellFormed.lean ====
section
/-! DEFINITION. The constraints on operands that a field's width alone does not express (30_encoding.md R60 to R62, the
`constraints` of spec/opcode_table.json), and the names of the reasons for which a command word is illegal (R62, R63). -/
namespace Sys2Proof

/-- Why a word is no legal command (30_encoding.md R62). Every reason raises the one code `ERR_ILLEGAL_CMD`, so the reason is
not observable (R62); it names the failing test. -/
inductive Illegal where
  /-- R62 test 1: bits 31:24 are no opcode of R59. -/
  | opcode
  /-- R62 test 2: a must-be-zero field is not zero. -/
  | unusedField
  /-- R62 test 3: a point or Jacobian register index above 7. -/
  | pointIndex
  /-- R62 test 3: a pair index of 15. -/
  | pairIndex
  /-- R62 test 4: an immediate, length or selector outside its legal set of R61. -/
  | immediate
deriving DecidableEq, Repr

/-- A pair index is at most 14 (10_state.md R22, 30_encoding.md R60). -/
def pairOk (i : RIdx) : Bool := decide (i.val ≤ 14)

/-- The byte count of `LDBE` and `STBE` is at most 32 (R61). -/
def intLenOk (len : Byte) : Bool := decide (len.toNat ≤ 32)

/-- The byte count of `PENC` is 33 or 65 (R61). -/
def pencLenOk (len : Byte) : Bool := decide (len.toNat = 33 ∨ len.toNat = 65)

/-- The window of `WNAF` and `PMUL` is in `2..8` (R61). -/
def windowOk (w : Byte) : Bool := decide (Config.wMin ≤ w.toNat ∧ w.toNat ≤ Config.wMax)

/-- A nonce table has 1 to 16 entries (R61, R62 test 4). -/
def nonceSrcOk : NonceSrc → Bool
  | .drbg => true
  | .fixed _ => true
  | .table cnt => decide (1 ≤ cnt.toNat ∧ cnt.toNat ≤ 16)

/-- The constraint checks of one command, the first that fails by name. -/
def Instr.check : Instr → Except Illegal Unit
  | .ldbe _ _ len | .stbe _ _ len => if intLenOk len then .ok () else .error .immediate
  | .redp _ ra | .redn _ ra | .truncn _ ra _ => if pairOk ra then .ok () else .error .pairIndex
  | .penc _ _ len => if pencLenOk len then .ok () else .error .immediate
  | .wnaf _ _ w | .pmul _ _ _ w => if windowOk w then .ok () else .error .immediate
  | .glvsplit rd _ => if pairOk rd then .ok () else .error .pairIndex
  | .sign rd _ _ _ src =>
    if pairOk rd then (if nonceSrcOk src then .ok () else .error .immediate) else .error .pairIndex
  | .nop | .mov .. | .ldi .. | .ldc .. | .pset .. | .pgetx .. | .pgety .. | .pmov .. | .pldg .. | .pinf .. | .jmov ..
  | .addp .. | .subp .. | .mulp .. | .invp .. | .powp .. | .sqrtp .. | .muln .. | .invn ..
  | .padd .. | .pdbl .. | .pneg .. | .peq .. | .pvalid .. | .pfromx .. | .pdec ..
  | .jfroma .. | .jtoa .. | .jadd .. | .jdbl .. | .jneg ..
  | .pendo .. | .pmuladd .. | .drbgk .. | .verify ..
  | .hinit .. | .hupdate .. | .hdigest .. | .hdigestH256 .. | .hdigestH160 .. | .hmacinit .. | .hmacfinal .. => .ok ()

/-- A well-formed command: every constraint of 30_encoding.md R61 and R62 that the operand types leave open holds. -/
def Instr.wellFormed (i : Instr) : Bool :=
  match i.check with
  | .ok () => true
  | .error _ => false

end Sys2Proof
end

