-- ==== Sys2Proof/Decode.lean ====
section
/-! DEFINITION. The command decoder (30_encoding.md R55 to R63, R67), total on 32-bit words, and after it the encoder, written
from the same tables. A command word is the data of one 32-bit bus write (R55, 20_memory.md R54), so there is no byte order to
choose. -/
namespace Sys2Proof

/-! ## Cutting a word into fields (R56 to R58) -/

/-- Bits 31:24, the opcode of every format (R55). -/
def opOf (w : Word32) : Nat := w.toNat / 2 ^ 24
/-- Bits 23:20, field `d` of formats R and M. -/
def dOf (w : Word32) : Nat := w.toNat / 2 ^ 20 % 2 ^ 4
/-- Bits 19:16, field `a` of format R. -/
def aOf (w : Word32) : Nat := w.toNat / 2 ^ 16 % 2 ^ 4
/-- Bits 15:12, field `b` of format R. -/
def bOf (w : Word32) : Nat := w.toNat / 2 ^ 12 % 2 ^ 4
/-- Bits 11:8, field `c` of format R. -/
def cOf (w : Word32) : Nat := w.toNat / 2 ^ 8 % 2 ^ 4
/-- Bits 7:0, field `imm` of format R and field `len` of format M. -/
def immOf (w : Word32) : Nat := w.toNat % 2 ^ 8
/-- Bits 19:8, field `off` of format M (R57). -/
def offMOf (w : Word32) : Nat := w.toNat / 2 ^ 8 % 2 ^ 12
/-- Bits 23:12, field `off` of format B (R58). -/
def offBOf (w : Word32) : Nat := w.toNat / 2 ^ 12 % 2 ^ 12
/-- Bits 11:0, field `len` of format B (R58). -/
def lenBOf (w : Word32) : Nat := w.toNat % 2 ^ 12

/-! ## From fields to operands (R60, R61) -/

/-- R62 test 2: every one of these fields is zero. -/
def unused (fields : List Nat) : Except Illegal Unit :=
  if fields.all (· == 0) then .ok () else .error .unusedField

/-- A field that indexes the integer file: every 4-bit value is legal (R60). -/
def rIdx (field : Nat) : RIdx := Fin.ofNat 16 field

/-- A field that indexes the affine or the Jacobian file: bit 3 set is illegal (R60). -/
def pointIdx (field : Nat) : Except Illegal (Fin 8) :=
  if h : field < 8 then .ok ⟨field, h⟩ else .error .pointIndex

/-- A one-bit immediate: `odd` of `PFROMX`, `truncOnly` of `TRUNCN` (R61). -/
def flagImm (imm : Nat) : Except Illegal Bool :=
  if imm = 0 then .ok false else if imm = 1 then .ok true else .error .immediate

/-- The `LDC` index (R61, 10_state.md R36). -/
def constOf (idx : Nat) : Except Illegal CurveConst :=
  match idx with
  | 0 => .ok .p | 1 => .ok .n | 2 => .ok .gx | 3 => .ok .gy
  | 4 => .ok .beta | 5 => .ok .lambda | 6 => .ok .sqrtExp | 7 => .ok .halfN
  | _ => .error .immediate

/-- The `alg` selector of `HINIT` and `HMACINIT` (R61, 44_hash.md R191). -/
def algOf (sel : Nat) : Except Illegal HashAlg :=
  match sel with
  | 0 => .ok .sha256 | 1 => .ok .sha512 | 2 => .ok .rmd160 | 3 => .ok .sha1
  | _ => .error .immediate

/-- The nonce source of `SIGN` from `imm[2:1]`, `c` and `imm[7:3]` (R61, R62 test 4). -/
def nonceSrcOf (src c cnt : Nat) : Except Illegal NonceSrc :=
  match src with
  | 0 => if c = 0 ∧ cnt = 0 then .ok .drbg else .error .immediate
  | 1 => if cnt = 0 then .ok (.fixed (rIdx c)) else .error .immediate
  | 2 => if c = 0 then .ok (.table (BitVec.ofNat 5 cnt)) else .error .immediate
  | _ => .error .immediate

/-! ## One decoder for each opcode, by operand shape (R59) -/

/-- A decoder of the words with one opcode. -/
abbrev Decoder := Word32 → Except Illegal Instr

/-- `d`, `a`, `b` integer registers; `c`, `imm` unused. -/
def decRRR (mk : RIdx → RIdx → RIdx → Instr) : Decoder := fun w => do
  unused [cOf w, immOf w]
  .ok (mk (rIdx (dOf w)) (rIdx (aOf w)) (rIdx (bOf w)))

/-- `d`, `a` integer registers; `b`, `c`, `imm` unused. -/
def decRR (mk : RIdx → RIdx → Instr) : Decoder := fun w => do
  unused [bOf w, cOf w, immOf w]
  .ok (mk (rIdx (dOf w)) (rIdx (aOf w)))

/-- `d`, `a`, `b` point registers; `c`, `imm` unused. -/
def decPPP (mk : Fin 8 → Fin 8 → Fin 8 → Instr) : Decoder := fun w => do
  unused [cOf w, immOf w]
  let d ← pointIdx (dOf w)
  let a ← pointIdx (aOf w)
  let b ← pointIdx (bOf w)
  .ok (mk d a b)

/-- `d`, `a` point registers; `b`, `c`, `imm` unused. -/
def decPP (mk : Fin 8 → Fin 8 → Instr) : Decoder := fun w => do
  unused [bOf w, cOf w, immOf w]
  let d ← pointIdx (dOf w)
  let a ← pointIdx (aOf w)
  .ok (mk d a)

/-- `d` a point register; everything else unused. -/
def decP (mk : Fin 8 → Instr) : Decoder := fun w => do
  unused [aOf w, bOf w, cOf w, immOf w]
  let d ← pointIdx (dOf w)
  .ok (mk d)

/-- `d` an integer register, `a` a point register; `b`, `c`, `imm` unused. -/
def decRP (mk : RIdx → Fin 8 → Instr) : Decoder := fun w => do
  unused [bOf w, cOf w, immOf w]
  let a ← pointIdx (aOf w)
  .ok (mk (rIdx (dOf w)) a)

/-- Format M with an integer register in `d`. -/
def decRM (mk : RIdx → Off → Byte → Instr) : Decoder := fun w =>
  .ok (mk (rIdx (dOf w)) (BitVec.ofNat 12 (offMOf w)) (BitVec.ofNat 8 (immOf w)))

/-- Format M with a point register in `d`. -/
def decPM (mk : Fin 8 → Off → Byte → Instr) : Decoder := fun w => do
  let d ← pointIdx (dOf w)
  .ok (mk d (BitVec.ofNat 12 (offMOf w)) (BitVec.ofNat 8 (immOf w)))

def decNop : Decoder := fun w => do
  unused [dOf w, aOf w, bOf w, cOf w, immOf w]
  .ok .nop

def decLdi : Decoder := fun w => do
  unused [aOf w, bOf w, cOf w]
  .ok (.ldi (rIdx (dOf w)) (BitVec.ofNat 8 (immOf w)))

def decLdc : Decoder := fun w => do
  unused [aOf w, bOf w, cOf w]
  let k ← constOf (immOf w)
  .ok (.ldc (rIdx (dOf w)) k)

def decPset : Decoder := fun w => do
  unused [cOf w, immOf w]
  let d ← pointIdx (dOf w)
  .ok (.pset d (rIdx (aOf w)) (rIdx (bOf w)))

def decPeq : Decoder := fun w => do
  unused [dOf w, cOf w, immOf w]
  let a ← pointIdx (aOf w)
  let b ← pointIdx (bOf w)
  .ok (.peq a b)

def decPvalid : Decoder := fun w => do
  unused [dOf w, bOf w, cOf w, immOf w]
  let a ← pointIdx (aOf w)
  .ok (.pvalid a)

def decPfromx : Decoder := fun w => do
  unused [bOf w, cOf w]
  let d ← pointIdx (dOf w)
  let odd ← flagImm (immOf w)
  .ok (.pfromx d (rIdx (aOf w)) odd)

def decWnaf : Decoder := fun w => do
  unused [bOf w, cOf w]
  .ok (.wnaf (rIdx (dOf w)) (rIdx (aOf w)) (BitVec.ofNat 8 (immOf w)))

def decPmul : Decoder := fun w => do
  unused [cOf w]
  let d ← pointIdx (dOf w)
  let b ← pointIdx (bOf w)
  .ok (.pmul d (rIdx (aOf w)) b (BitVec.ofNat 8 (immOf w)))

/-- `imm[2:0]` is the second point, `imm[7:3]` must be zero (R61). -/
def decPmuladd : Decoder := fun w => do
  unused [immOf w / 2 ^ 3]
  let d ← pointIdx (dOf w)
  let b ← pointIdx (bOf w)
  let p2 ← pointIdx (immOf w % 2 ^ 3)
  .ok (.pmuladd d (rIdx (aOf w)) b (rIdx (cOf w)) p2)

def decTruncn : Decoder := fun w => do
  unused [bOf w, cOf w]
  let t ← flagImm (immOf w)
  .ok (.truncn (rIdx (dOf w)) (rIdx (aOf w)) t)

def decDrbgk : Decoder := fun w => do
  unused [cOf w]
  .ok (.drbgk (rIdx (dOf w)) (rIdx (aOf w)) (rIdx (bOf w)) (BitVec.ofNat 8 (immOf w)))

/-- `imm[0]` is `lowS`, `imm[2:1]` is `src`, `imm[7:3]` is `cnt` (R61). -/
def decSign : Decoder := fun w => do
  let src ← nonceSrcOf (immOf w / 2 % 2 ^ 2) (cOf w) (immOf w / 2 ^ 3)
  .ok (.sign (rIdx (dOf w)) (rIdx (aOf w)) (rIdx (bOf w)) (immOf w % 2 == 1) src)

/-- The point register is encoded in `d` and written last in assembly (R65). -/
def decVerify : Decoder := fun w => do
  unused [immOf w]
  let q ← pointIdx (dOf w)
  .ok (.verify (rIdx (aOf w)) (rIdx (bOf w)) (rIdx (cOf w)) q)

def decHinit : Decoder := fun w => do
  unused [dOf w, aOf w, bOf w, cOf w]
  let alg ← algOf (immOf w)
  .ok (.hinit alg)

def decHupdate : Decoder := fun w =>
  .ok (.hupdate (BitVec.ofNat 12 (offBOf w)) (BitVec.ofNat 12 (lenBOf w)))

/-- Opcode `0x52` carries three mnemonics, chosen by `d` (R59, R61). -/
def decHdigest : Decoder := fun w => do
  unused [immOf w]
  match dOf w with
  | 0 => .ok (.hdigest (BitVec.ofNat 12 (offMOf w)))
  | 1 => .ok (.hdigestH256 (BitVec.ofNat 12 (offMOf w)))
  | 2 => .ok (.hdigestH160 (BitVec.ofNat 12 (offMOf w)))
  | _ => .error .immediate

def decHmacinit : Decoder := fun w => do
  let alg ← algOf (dOf w)
  .ok (.hmacinit alg (BitVec.ofNat 12 (offMOf w)) (BitVec.ofNat 8 (immOf w)))

def decHmacfinal : Decoder := fun w => do
  unused [dOf w, immOf w]
  .ok (.hmacfinal (BitVec.ofNat 12 (offMOf w)))

/-! ## The opcode map (R59) -/

/-- Moves. -/
def decodersMove : List (Nat × Decoder) :=
  [(0x00, decNop), (0x01, decRR .mov), (0x02, decLdi), (0x03, decLdc), (0x04, decRM .ldbe), (0x05, decRM .stbe),
   (0x08, decPset), (0x09, decRP .pgetx), (0x0A, decRP .pgety), (0x0B, decPP .pmov), (0x0C, decP .pldg),
   (0x0D, decP .pinf), (0x0E, decPP .jmov)]

/-- Field-p and order-n arithmetic. -/
def decodersField : List (Nat × Decoder) :=
  [(0x10, decRRR .addp), (0x11, decRRR .subp), (0x12, decRRR .mulp), (0x13, decRR .invp), (0x14, decRRR .powp),
   (0x15, decRR .sqrtp), (0x16, decRR .redp), (0x18, decRRR .muln), (0x19, decRR .invn), (0x1A, decRR .redn)]

/-- Points. -/
def decodersPoint : List (Nat × Decoder) :=
  [(0x20, decPPP .padd), (0x21, decPP .pdbl), (0x22, decPP .pneg), (0x23, decPeq), (0x24, decPvalid),
   (0x25, decPfromx), (0x26, decPM .pdec), (0x27, decPM .penc), (0x28, decPP .jfroma), (0x29, decPP .jtoa),
   (0x2A, decPPP .jadd), (0x2B, decPP .jdbl), (0x2C, decPP .jneg)]

/-- Recoding, scalar multiplication, ECDSA and hash. -/
def decodersRest : List (Nat × Decoder) :=
  [(0x30, decWnaf), (0x31, decRR .glvsplit), (0x32, decPP .pendo), (0x33, decPmul), (0x34, decPmuladd),
   (0x40, decTruncn), (0x41, decDrbgk), (0x42, decSign), (0x43, decVerify),
   (0x50, decHinit), (0x51, decHupdate), (0x52, decHdigest), (0x53, decHmacinit), (0x54, decHmacfinal)]

/-- The complete opcode map: 50 opcodes (R59). -/
def decoders : List (Nat × Decoder) := decodersMove ++ decodersField ++ decodersPoint ++ decodersRest

/-- The decoder (R67): look the opcode up, cut the fields, apply the checks of R62. -/
def decode (w : Word32) : Except Illegal Instr :=
  match decoders.lookup (opOf w) with
  | none => .error .opcode
  | some dec => do
    let i ← dec w
    i.check
    .ok i

/-- The host's reading of a row of spec/opcode_table.json: the instruction whose `nbits` bits are `w`, every higher bit zero.
Every row has 32 bits, so this is the command word itself. -/
def decodeTableWord (nbits w : Nat) : Option Instr :=
  match decode (BitVec.ofNat 32 (w % 2 ^ nbits)) with
  | .ok i => some i
  | .error _ => none

/-! ## The encoder -/

/-- A format R word (R56). -/
def encR (op d a b c imm : Nat) : Word32 :=
  BitVec.ofNat 32 (op * 2 ^ 24 + d * 2 ^ 20 + a * 2 ^ 16 + b * 2 ^ 12 + c * 2 ^ 8 + imm)

/-- A format M word (R57). -/
def encM (op d off len : Nat) : Word32 := BitVec.ofNat 32 (op * 2 ^ 24 + d * 2 ^ 20 + off * 2 ^ 8 + len)

/-- A format B word (R58). -/
def encB (op off len : Nat) : Word32 := BitVec.ofNat 32 (op * 2 ^ 24 + off * 2 ^ 12 + len)

/-- The `LDC` index of a constant (10_state.md R36). -/
def CurveConst.code : CurveConst → Nat
  | .p => 0 | .n => 1 | .gx => 2 | .gy => 3 | .beta => 4 | .lambda => 5 | .sqrtExp => 6 | .halfN => 7

/-- The selector of an algorithm (44_hash.md R191). -/
def HashAlg.code : HashAlg → Nat
  | .sha256 => 0 | .sha512 => 1 | .rmd160 => 2 | .sha1 => 3

/-- The `src` tag of a nonce source (R61). -/
def NonceSrc.tag : NonceSrc → Nat
  | .drbg => 0 | .fixed _ => 1 | .table _ => 2

/-- The `c` field of a `SIGN` word (R61, R62). -/
def NonceSrc.cField : NonceSrc → Nat
  | .drbg => 0 | .fixed rc => rc.val | .table _ => 0

/-- The `cnt` field of a `SIGN` word (R61, R62). -/
def NonceSrc.cntField : NonceSrc → Nat
  | .drbg => 0 | .fixed _ => 0 | .table cnt => cnt.toNat

/-- The command word of an instruction (R59), the only one (R67). An ill-formed instruction also has a word, an illegal one. -/
def encode : Instr → Word32
  | .nop => encR 0x00 0 0 0 0 0
  | .mov rd ra => encR 0x01 rd ra 0 0 0
  | .ldi rd imm => encR 0x02 rd 0 0 0 imm.toNat
  | .ldc rd k => encR 0x03 rd 0 0 0 k.code
  | .ldbe rd off len => encM 0x04 rd off.toNat len.toNat
  | .stbe rs off len => encM 0x05 rs off.toNat len.toNat
  | .pset ad rx ry => encR 0x08 ad rx ry 0 0
  | .pgetx rd aa => encR 0x09 rd aa 0 0 0
  | .pgety rd aa => encR 0x0A rd aa 0 0 0
  | .pmov ad aa => encR 0x0B ad aa 0 0 0
  | .pldg ad => encR 0x0C ad 0 0 0 0
  | .pinf ad => encR 0x0D ad 0 0 0 0
  | .jmov jd ja => encR 0x0E jd ja 0 0 0
  | .addp rd ra rb => encR 0x10 rd ra rb 0 0
  | .subp rd ra rb => encR 0x11 rd ra rb 0 0
  | .mulp rd ra rb => encR 0x12 rd ra rb 0 0
  | .invp rd ra => encR 0x13 rd ra 0 0 0
  | .powp rd ra rb => encR 0x14 rd ra rb 0 0
  | .sqrtp rd ra => encR 0x15 rd ra 0 0 0
  | .redp rd ra => encR 0x16 rd ra 0 0 0
  | .muln rd ra rb => encR 0x18 rd ra rb 0 0
  | .invn rd ra => encR 0x19 rd ra 0 0 0
  | .redn rd ra => encR 0x1A rd ra 0 0 0
  | .padd ad aa ab => encR 0x20 ad aa ab 0 0
  | .pdbl ad aa => encR 0x21 ad aa 0 0 0
  | .pneg ad aa => encR 0x22 ad aa 0 0 0
  | .peq aa ab => encR 0x23 0 aa ab 0 0
  | .pvalid aa => encR 0x24 0 aa 0 0 0
  | .pfromx ad rx odd => encR 0x25 ad rx 0 0 odd.toNat
  | .pdec ad off len => encM 0x26 ad off.toNat len.toNat
  | .penc aa off len => encM 0x27 aa off.toNat len.toNat
  | .jfroma jd aa => encR 0x28 jd aa 0 0 0
  | .jtoa ad ja => encR 0x29 ad ja 0 0 0
  | .jadd jd ja jb => encR 0x2A jd ja jb 0 0
  | .jdbl jd ja => encR 0x2B jd ja 0 0 0
  | .jneg jd ja => encR 0x2C jd ja 0 0 0
  | .wnaf rd ra w => encR 0x30 rd ra 0 0 w.toNat
  | .glvsplit rd ra => encR 0x31 rd ra 0 0 0
  | .pendo ad aa => encR 0x32 ad aa 0 0 0
  | .pmul ad rk ab w => encR 0x33 ad rk ab 0 w.toNat
  | .pmuladd ad rk1 ap1 rk2 ap2 => encR 0x34 ad rk1 ap1 rk2 ap2
  | .truncn rd ra t => encR 0x40 rd ra 0 0 t.toNat
  | .drbgk rd rmsg rkey iter => encR 0x41 rd rmsg rkey 0 iter.toNat
  | .sign rd rmsg rkey lowS src =>
    encR 0x42 rd rmsg rkey src.cField (lowS.toNat + src.tag * 2 + src.cntField * 2 ^ 3)
  | .verify rmsg rr rs aq => encR 0x43 aq rmsg rr rs 0
  | .hinit alg => encR 0x50 0 0 0 0 alg.code
  | .hupdate off len => encB 0x51 off.toNat len.toNat
  | .hdigest off => encM 0x52 0 off.toNat 0
  | .hdigestH256 off => encM 0x52 1 off.toNat 0
  | .hdigestH160 off => encM 0x52 2 off.toNat 0
  | .hmacinit alg off len => encM 0x53 alg.code off.toNat len.toNat
  | .hmacfinal off => encM 0x54 0 off.toNat 0

end Sys2Proof
end

