-- ==== Sys2Proof/Machine/State.lean ====
section
/-! DEFINITION. The state of sub001 CORE (10_state.md R20 to R39), its reset value (R38, 70_reset_and_hazards.md R291), the
events by which the host drives it (20_memory.md R43, R290), and the reasons for which a step stops. -/
namespace Sys2Proof.Machine

/-- An affine point register (10_state.md R23). With `inf = true` the coordinates are ignored by every command that consumes
the register as a point. -/
structure APoint where
  x : Word
  y : Word
  inf : Bool
deriving DecidableEq, Repr

/-- A Jacobian point register (10_state.md R24). -/
structure JPoint where
  X : Word
  Y : Word
  Z : Word
deriving DecidableEq, Repr

/-- The three defined bits of `FLAGS` (10_state.md R31). -/
structure Flags where
  t : Bool
  n1 : Bool
  n2 : Bool
deriving DecidableEq, Repr

/-- The hash context (10_state.md R34). `h` is the field `H[0..7]`. -/
structure HashCtx where
  active : Bool
  hmac : Bool
  alg : HashAlg
  h : Vector Word64 8
  hlen : Word64
  npend : BitVec 7
  pend : Vector Byte 128
deriving DecidableEq, Repr

/-- The idle context: every field zero (10_state.md R38, 44_hash.md R196). -/
def HashCtx.idle : HashCtx :=
  { active := false, hmac := false, alg := .sha256, h := Vector.replicate 8 0, hlen := 0, npend := 0,
    pend := Vector.replicate 128 0 }

/-- DBUF as a sparse list of cells (20_memory.md R40): addresses strictly rising, every address below 512, no cell holding
the byte an unlisted address reads as. -/
abbrev Memory := List Host.Cell

/-- What an unlisted DBUF byte reads as: the reset contents (10_state.md R38). -/
def Memory.unlisted : Byte := 0

/-- One entry of the hidden wNAF table cache: the key `(w, x, y)` and the odd multiples of that point (10_state.md R39). -/
structure CacheEntry where
  w : Byte
  x : Word
  y : Word
  table : List JPoint
deriving DecidableEq, Repr

/-- One event at the block's slave window (20_memory.md R43, 70_reset_and_hazards.md R290). -/
inductive HostEvent where
  /-- A 32-bit read at a byte offset. -/
  | read (off : Nat)
  /-- A 32-bit write at a byte offset. -/
  | write (off : Nat) (data : Word32)
  /-- An access that is not one 32-bit word: 8, 16 or 64 bits, or an unbroken burst (R43). -/
  | otherWidth (off bytes : Nat)
  /-- Hardware reset (R290). -/
  | hardReset
deriving DecidableEq, Repr

/-- The machine's state. Every field but the last two is the spec's (10_state.md R20, R39). -/
structure State where
  /-- Integer registers (R21). -/
  r : Vector Word 16
  /-- Affine point registers (R23). -/
  a : Vector APoint 8
  /-- Jacobian point registers (R24). -/
  j : Vector JPoint 8
  /-- `FLAGS` (R31). -/
  flags : Flags
  /-- `STATUS.ERR` (R32). -/
  err : Bool
  /-- `STATUS.ERRCODE` (R32). -/
  errcode : Byte
  /-- `ERRCMD` (R32). -/
  errcmd : Word32
  /-- The hash context (R34). -/
  hc : HashCtx
  /-- The padded HMAC key (R35). -/
  hkey : Vector Byte 128
  /-- The data buffer (R37). -/
  dbuf : Memory
  /-- The hidden wNAF table cache, most recently used first (R39). -/
  wnafCache : List CacheEntry
  /-- The model's own field: the host's events not yet served, the next one first (00_scope.md R8, log entries 1 and 3). -/
  hostIn : List HostEvent
  /-- The model's own field: the answers to the host's reads, oldest first (20_memory.md R43, log entry 3). -/
  hostOut : List Word32
deriving DecidableEq, Repr

/-- The state right after reset (10_state.md R38): everything zero, the hash context idle, the cache empty. The host's two
lists are the model's own and start empty (DESIGN CHOICE, log entry 3). -/
def State.reset : State :=
  { r := Vector.replicate 16 0
    a := Vector.replicate 8 { x := 0, y := 0, inf := false }
    j := Vector.replicate 8 { X := 0, Y := 0, Z := 0 }
    flags := { t := false, n1 := false, n2 := false }
    err := false
    errcode := 0
    errcmd := 0
    hc := HashCtx.idle
    hkey := Vector.replicate 128 0
    dbuf := []
    wnafCache := []
    hostIn := []
    hostOut := [] }

/-- The reasons for which the machine halts with a fault: none. Every failure of this hardware is recorded in `STATUS` and
`ERRCMD` and the machine goes on (60_exceptions.md R262; log entry 16), so this type has no constructor. -/
inductive Fault where
deriving DecidableEq, Repr

/-- The reasons for which the model does not define a step. -/
inductive Refusal where
  /-- Raised by `exec` for an instruction whose meaning is not written yet. Safe. -/
  | notModelled (mnemonic : String)
  /-- Raised by the host port for an access that rule R43 of 20_memory.md answers with a bus error and tells a model to
  refuse: an unmapped or unaligned offset, or a width other than 32 bits. Safe. -/
  | busError (off : Nat)
deriving DecidableEq, Repr

end Sys2Proof.Machine
end

