-- ==== Sys2Proof/Machine/Bytes.lean ====
section
/-! DEFINITION. Byte strings and their integer values (00_scope.md R12), and the bit-field helpers of the host window
(20_memory.md R42). -/
namespace Sys2Proof.Machine

/-- `be(B)`: the big-endian value of a byte string (R12). -/
def be (bs : List Byte) : Nat := bs.foldl (fun acc b => acc * 256 + b.toNat) 0

/-- `le(B)`: the little-endian value of a byte string (R12). -/
def le : List Byte → Nat
  | [] => 0
  | b :: bs => b.toNat + 256 * le bs

/-- `tobe(v, L)`: the `L`-byte big-endian string of `v`, for `v < 256^L` (R12). -/
def tobe (v : Nat) : Nat → List Byte
  | 0 => []
  | len + 1 => BitVec.ofNat 8 (v / 256 ^ len) :: tobe v len

/-- `tole(v, L)`: the `L`-byte little-endian string of `v` (R12). -/
def tole (v : Nat) : Nat → List Byte
  | 0 => []
  | len + 1 => BitVec.ofNat 8 v :: tole (v / 256) len

/-- `bitlen(x)` (R10). -/
def bitlen (x : Nat) : Nat := if x = 0 then 0 else x.log2 + 1

/-- `bytelen(x) = ceil(bitlen(x) / 8)` (R10). -/
def bytelen (x : Nat) : Nat := (bitlen x + 7) / 8

/-- `tc_8(z)`: the two's-complement byte of a signed digit (R11). -/
def tc8 (z : Int) : Byte := BitVec.ofInt 8 z

/-- `len` zero bytes. -/
def zeros (len : Nat) : List Byte := List.replicate len 0

/-- A byte string cut or zero-extended to the 128 bytes of `hc.pend` and `hkey` (10_state.md R34, R35). -/
def pad128 (bs : List Byte) : Vector Byte 128 := ⟨((bs ++ zeros 128).take 128).toArray, by simp [zeros]⟩

/-- Word `k` of a 256-bit field: bits `32k+31 : 32k`, word 0 the least significant (20_memory.md R42). -/
def getWord (v : Word) (k : Fin 8) : Word32 := v.extractLsb' (32 * k.val) 32

/-- Replace word `k` of a 256-bit field, the other 224 bits unchanged (20_memory.md R45). -/
def setWord (v : Word) (k : Fin 8) (x : Word32) : Word :=
  (v &&& ~~~(0xFFFFFFFF#256 <<< (32 * k.val))) ||| (x.setWidth 256 <<< (32 * k.val))

/-- Four bytes as one window word: byte `b` is bits `8b+7 : 8b` (20_memory.md R42). -/
def laneWord (b0 b1 b2 b3 : Byte) : Word32 := b3 ++ b2 ++ b1 ++ b0

/-- Byte `b` of a window word (20_memory.md R42). -/
def laneByte (w : Word32) (b : Fin 4) : Byte := w.extractLsb' (8 * b.val) 8

end Sys2Proof.Machine
end

