-- ==== Sys2Proof/Machine/Ops.lean ====
section
/-! DEFINITION. The named operations over registers, DBUF and the fault record that every command is written with: the fault
codes (60_exceptions.md R261), fault entry (R262) and its clearing (R265), the completion of a command (R263), register and
DBUF access (00_scope.md R13), and reset (70_reset_and_hazards.md R290). -/
namespace Sys2Proof.Machine

/-! ## The fault record -/

/-- The fault codes (60_exceptions.md R261). -/
inductive ErrCode where
  | illegalCmd | bufRange | range | invZero | infinity | invalidPoint | pointFormat
  | kRange | kInfinity | kZeroR | kZeroS | nonceExhausted | hashState | hashLen
deriving DecidableEq, Repr

/-- The number of a fault code (R261). -/
def ErrCode.code : ErrCode → Byte
  | .illegalCmd => 1 | .bufRange => 2 | .range => 3 | .invZero => 4 | .infinity => 5 | .invalidPoint => 6
  | .pointFormat => 7 | .kRange => 8 | .kInfinity => 9 | .kZeroR => 10 | .kZeroS => 11 | .nonceExhausted => 12
  | .hashState => 13 | .hashLen => 14

/-- FAULT ENTRY, the machine's one exception: command word `w` raised `e` (60_exceptions.md R262). The record is written and
nothing else changes; there is no saved pc, no mode and no vector (10_state.md R29, 60_exceptions.md R270). -/
def faultEntry (e : ErrCode) (w : Word32) (s : State) : State :=
  { s with err := true, errcode := e.code, errcmd := w }

/-- `CTRL.CLRERR`, the only return from a fault (60_exceptions.md R265, 10_state.md R33). -/
def clearFault (s : State) : State :=
  { s with err := false, errcode := 0, errcmd := 0 }

/-- Hardware reset and `CTRL.SRST` (70_reset_and_hazards.md R290, 10_state.md R38): every piece of the block's state takes its
reset value. The host's two lists are outside the block and stay (log entry 3). -/
def resetBlock (s : State) : State :=
  { State.reset with hostIn := s.hostIn, hostOut := s.hostOut }

/-! ## Completing a command -/

/-- A test of a command's rule: the command goes on when `c` holds and raises `e` otherwise. -/
def require (c : Prop) [Decidable c] (e : ErrCode) : Except ErrCode Unit :=
  if c then .ok () else .error e

/-- The end of a command (60_exceptions.md R263): its writes take effect all together, or fault entry records the word of the
command. The word is `encode i`, the only word that decodes to `i` (30_encoding.md R67, log entry 7). -/
def complete (i : Instr) (s : State) (result : Except ErrCode State) : Host.Outcome State Fault Refusal :=
  match result with
  | .ok s' => .next s'
  | .error e => .next (faultEntry e (encode i) s)

/-- RUN A COMMAND whose rule is `rule` (60_exceptions.md R263 after its discard test, R264): the constraint checks first, then
the rule. The decoder passes well-formed commands only; an ill-formed one raises `ERR_ILLEGAL_CMD` as its word does
(30_encoding.md R62, log entry 8). -/
def command (i : Instr) (s : State) (rule : Except ErrCode State) : Host.Outcome State Fault Refusal :=
  complete i s (if i.wellFormed then rule else .error .illegalCmd)

/-! ## Registers (00_scope.md R13) -/

/-- `r[i]`. -/
def State.getR (s : State) (i : RIdx) : Word := s.r[i]

/-- `r[i]` as an integer in `[0, 2^256)`. -/
def State.natR (s : State) (i : RIdx) : Nat := (s.getR i).toNat

/-- `r[i] <- v`. -/
def State.setR (s : State) (i : RIdx) (v : Word) : State := { s with r := s.r.set i v }

/-- `r[i] <- v` for an integer `0 <= v < 2^256`. -/
def State.setNatR (s : State) (i : RIdx) (v : Nat) : State := s.setR i (BitVec.ofNat 256 v)

/-- `a[i]`. -/
def State.getA (s : State) (i : AIdx) : APoint := s.a[i]

/-- `a[i] <- q`. -/
def State.setA (s : State) (i : AIdx) (q : APoint) : State := { s with a := s.a.set i q }

/-- `j[i]`. -/
def State.getJ (s : State) (i : JIdx) : JPoint := s.j[i]

/-- `j[i] <- q`. -/
def State.setJ (s : State) (i : JIdx) (q : JPoint) : State := { s with j := s.j.set i q }

/-- The upper register of a pair (10_state.md R22). Only reached with `i <= 14`: `i = 15` is an illegal command. -/
def pairHigh (i : RIdx) : RIdx := i + 1

/-- `pair(i) = r[i] + 2^256 * r[i+1]` (10_state.md R22). -/
def State.pair (s : State) (i : RIdx) : Nat := s.natR i + 2 ^ 256 * s.natR (pairHigh i)

/-! ## DBUF (20_memory.md R40, R41) -/

/-- The byte at an address. -/
def Memory.read (m : Memory) (addr : Nat) : Byte :=
  match m with
  | [] => Memory.unlisted
  | (x, v) :: rest => if addr = x then v else Memory.read rest addr

/-- Store one byte, keeping the canonical form. -/
def Memory.write (m : Memory) (addr : Nat) (b : Byte) : Memory :=
  match m with
  | [] => if b = Memory.unlisted then [] else [(addr, b)]
  | (x, v) :: rest =>
    if addr < x then (if b = Memory.unlisted then (x, v) :: rest else (addr, b) :: (x, v) :: rest)
    else if addr = x then (if b = Memory.unlisted then rest else (addr, b) :: rest)
    else (x, v) :: Memory.write rest addr b

/-- Strictly rising addresses, all above or equal to `lo`, below the size of DBUF, and no unlisted byte listed. -/
def Memory.wfFrom (lo : Nat) : Memory → Bool
  | [] => true
  | (x, v) :: rest => decide (lo ≤ x) && decide (x < Config.dbufBytes) && decide (v ≠ Memory.unlisted) && Memory.wfFrom (x + 1) rest

/-- The canonical form of DBUF. -/
def Memory.wf (m : Memory) : Bool := Memory.wfFrom 0 m

/-- `len` consecutive bytes from `off`, without a range check. -/
def Memory.readBytes (m : Memory) (off : Nat) : Nat → List Byte
  | 0 => []
  | len + 1 => m.read off :: Memory.readBytes m (off + 1) len

/-- Store a byte string from `off` on, without a range check. -/
def Memory.writeBytes (m : Memory) (off : Nat) : List Byte → Memory
  | [] => m
  | b :: bs => Memory.writeBytes (m.write off b) (off + 1) bs

/-- The range check of every DBUF access: legal exactly when `off + len <= 512` (20_memory.md R41). -/
def checkBuf (off len : Nat) : Except ErrCode Unit := require (off + len ≤ Config.dbufBytes) .bufRange

/-- `MemRead(off, n)` (00_scope.md R13), after `checkBuf off n`. -/
def State.memRead (s : State) (off len : Nat) : List Byte := s.dbuf.readBytes off len

/-- `MemWrite(off, n, B)` (00_scope.md R13), after `checkBuf off n`. -/
def State.memWrite (s : State) (off : Nat) (bs : List Byte) : State := { s with dbuf := s.dbuf.writeBytes off bs }

end Sys2Proof.Machine
end

