-- ==== Sys2Proof/Machine/Arith.lean ====
section
/-! DEFINITION. Field-p and order-n arithmetic on integers (40_field.md R70 to R73, R78, R79), truncation to the order
(43_ecdsa.md R170), the wNAF recoder (42_scalarmul.md R131) and the GLV splitter (R137). -/
namespace Sys2Proof.Machine

/-! ## Field p -/

/-- `add_p(x, y) = (x + y) mod p` (40_field.md R71). -/
def addP (x y : Nat) : Nat := (x + y) % Config.p

/-- `sub_p(x, y) = (x - y) mod p` (R71). -/
def subP (x y : Nat) : Nat := (x + (Config.p - y % Config.p)) % Config.p

/-- `mul_p(x, y) = (x * y) mod p` (R71). -/
def mulP (x y : Nat) : Nat := x * y % Config.p

/-- One fold of the reducer: replace `hi * 2^256` by `hi * (2^32 + 977)` (R72). -/
def foldP (x : Nat) : Nat := x % 2 ^ 256 + x / 2 ^ 256 * 2 ^ 32 + x / 2 ^ 256 * 977

/-- The field-p reducer: two folds and one conditional subtraction (R72). -/
def redp (x : Nat) : Nat :=
  let x2 := foldP (foldP x)
  if x2 ≥ Config.p then x2 - Config.p else x2

/-- Square and multiply over bits `i - 1` down to 0 of `e` (R78). -/
def powpLoop (x e : Nat) : Nat → Nat → Nat
  | 0, acc => acc
  | i + 1, acc =>
    let sq := redp (acc * acc)
    powpLoop x e i (if e.testBit i then redp (sq * x) else sq)

/-- `x^e mod p`, most significant bit first, through the reducer (R78). -/
def powp (x e : Nat) : Nat := powpLoop x e (bitlen e) 1

/-- The field square root: the candidate `x^((p+1)/4)`, if its square is `x` (R79). -/
def sqrtp (x : Nat) : Option Nat :=
  let t := powp x Config.sqrtExp
  if redp (t * t) = x then some t else none

/-! ## Inverses modulo a prime -/

/-- Digits `i - 1` down to 0 of `e` in radix 32: `acc` becomes `acc^32 * x^digit`, modulo `m`. -/
def powModLoop (m x e : Nat) : Nat → Nat → Nat
  | 0, acc => acc
  | i + 1, acc => powModLoop m x e i (acc ^ 32 * x ^ (e / 32 ^ i % 32) % m)

/-- `x^e mod m` for an exponent below `2^260`. -/
def powMod (m x e : Nat) : Nat := powModLoop m x e 52 (1 % m)

/-- `inv_m(x)` for a prime `m` and `x` in `[1, m-1]`: the unique `y` in `[1, m-1]` with `x * y ≡ 1 (mod m)` (40_field.md R73),
computed as `x^(m-2) mod m` (log entry 10). -/
def invMod (m x : Nat) : Nat := powMod m x (m - 2)

/-- `inv_p` (00_scope.md R14). -/
def invP (x : Nat) : Nat := invMod Config.p x

/-- `inv_n` (00_scope.md R14). -/
def invN (x : Nat) : Nat := invMod Config.n x

/-! ## Order n -/

/-- `mul_n(x, y) = (x * y) mod n` (40_field.md R71). -/
def mulN (x y : Nat) : Nat := x * y % Config.n

/-- `truncateToN` (43_ecdsa.md R170). -/
def truncateToN (v : Nat) (truncOnly : Bool) : Nat :=
  let delta := bytelen v * 8 - 256
  let v := v >>> delta
  if truncOnly = false ∧ v ≥ Config.n then v - Config.n else v

/-! ## Recoding -/

/-- The digit the recoder takes from a scalar: 0 for an even one, else the odd representative of the low `w` bits in
`(-2^(w-1), 2^(w-1))` (42_scalarmul.md R131). -/
def wnafDigit (w k : Nat) : Int :=
  if k % 2 = 0 then 0
  else
    let z := k % 2 ^ w
    if z > 2 ^ (w - 1) then (z : Int) - 2 ^ w else z

/-- The recoding loop, at most `fuel` digits (R131). -/
def wnafLoop (w : Nat) : Nat → Nat → List Int
  | 0, _ => []
  | fuel + 1, k =>
    if k = 0 then []
    else
      let z := wnafDigit w k
      z :: wnafLoop w fuel (((k : Int) - z).toNat / 2)

/-- `wnaf(k, w)`, least significant digit first (R131). `bitlen k + 1` digits are enough (R132 (e), log entry 17). -/
def wnaf (k w : Nat) : List Int := wnafLoop w (bitlen k + 1) k

/-- `divround(x, m) = floor((2x + m) / (2m))` (R137). -/
def divround (x m : Int) : Int := (2 * x + m) / (2 * m)

/-- `glvsplit(k)` (R137). -/
def glvsplit (k : Nat) : Int × Int :=
  let c1 := divround (Config.glvB2 * k) Config.n
  let c2 := divround (-Config.glvB1 * k) Config.n
  (k - c1 * Config.glvA1 - c2 * Config.glvA2, -(c1 * Config.glvB1 + c2 * Config.glvB2))

end Sys2Proof.Machine
end

