-- ==== Sys2Proof/Machine/Curve.lean ====
section
/-! DEFINITION. The curve `y^2 = x^3 + 7` over the field of `p`: the affine group law (41_point.md R91), the Jacobian formulas
(R92 to R95), scalar multiples (42_scalarmul.md R140, R144), the endomorphism (R134), and the document's reference procedures
(R141, R142, R144). Coordinates are integers; the register forms are converted at the end of the file. -/
namespace Sys2Proof.Machine

/-- An affine point: infinity, or a finite pair of coordinates (00_scope.md R13). -/
inductive Pt where
  | inf
  | fin (x y : Nat)
deriving DecidableEq, Repr

/-- A Jacobian triple (41_point.md R92). -/
structure Jac where
  X : Nat
  Y : Nat
  Z : Nat
deriving DecidableEq, Repr

/-- `on_curve(x, y)` (00_scope.md R15). -/
def onCurve (x y : Nat) : Bool :=
  decide (x < Config.p) && decide (y < Config.p) && decide (y * y % Config.p = (x * x * x + 7) % Config.p)

/-- A well-formed point: infinity, or a finite point on the curve (00_scope.md R15, R19). -/
def Pt.wf : Pt → Bool
  | .inf => true
  | .fin x y => onCurve x y

/-- The generator `G` (10_state.md R36). -/
def Pt.gen : Pt := .fin Config.gx Config.gy

/-! ## The affine group law -/

/-- `neg` (41_point.md R91). -/
def Pt.neg : Pt → Pt
  | .inf => .inf
  | .fin x y => .fin x ((Config.p - y) % Config.p)

/-- `add` (R91): identity, opposite points, tangent, chord. -/
def Pt.add : Pt → Pt → Pt
  | .inf, q => q
  | .fin x1 y1, .inf => .fin x1 y1
  | .fin x1 y1, .fin x2 y2 =>
    if x1 = x2 ∧ addP y1 y2 = 0 then .inf
    else
      let slope :=
        if x1 = x2 ∧ y1 = y2 then mulP (mulP 3 (mulP x1 x1)) (invP (mulP 2 y1))
        else mulP (subP y2 y1) (invP (subP x2 x1))
      let x3 := subP (subP (mulP slope slope) x1) x2
      .fin x3 (subP (mulP slope (subP x1 x3)) y1)

/-- `dbl(P) = add(P, P)` (R91). -/
def Pt.dbl (q : Pt) : Pt := q.add q

/-- Double-and-add over bits `i - 1` down to 0 of `k`. -/
def smulLoop (k : Nat) (q : Pt) : Nat → Pt → Pt
  | 0, acc => acc
  | i + 1, acc =>
    let d := acc.dbl
    smulLoop k q i (if k.testBit i then d.add q else d)

/-- `[k]Q`, the `k`-fold sum of `Q` under `add` (00_scope.md R14, 42_scalarmul.md R140), by double-and-add (log entry 11). -/
def smul (k : Nat) (q : Pt) : Pt := smulLoop k q (bitlen k) .inf

/-- `muladd(k1, P1, k2, P2) = [k1]P1 + [k2]P2` (42_scalarmul.md R144). -/
def muladd (k1 : Nat) (p1 : Pt) (k2 : Nat) (p2 : Pt) : Pt := (smul k1 p1).add (smul k2 p2)

/-- The endomorphism `phi` (42_scalarmul.md R134). -/
def Pt.phi : Pt → Pt
  | .inf => .inf
  | .fin x y => .fin (mulP Config.beta x) y

/-- The point with a given x coordinate and parity of y, if there is one (41_point.md R102). -/
def liftX (x : Nat) (odd : Bool) : Option Pt :=
  match sqrtp ((x * x * x + 7) % Config.p) with
  | none => none
  | some t => some (.fin x (if t % 2 = odd.toNat then t else (Config.p - t) % Config.p))

/-! ## Jacobian coordinates -/

/-- `JINF`, the canonical triple of infinity (41_point.md R92). -/
def Jac.infinity : Jac := { X := 0, Y := 1, Z := 0 }

/-- `jdbl` (R93), the exact triple. -/
def Jac.dbl (q : Jac) : Jac :=
  if q.Z = 0 ∨ q.Y = 0 then Jac.infinity
  else
    let yy := mulP q.Y q.Y
    let s := mulP (mulP 4 q.X) yy
    let m := mulP (mulP 3 q.X) q.X
    let x3 := subP (mulP m m) (mulP 2 s)
    { X := x3
      Y := subP (mulP m (subP s x3)) (mulP (mulP 8 yy) yy)
      Z := mulP (mulP 2 q.Y) q.Z }

/-- `jadd` (R94), the exact triple. -/
def Jac.add (q1 q2 : Jac) : Jac :=
  if q1.Z = 0 then (if q2.Z = 0 then Jac.infinity else q2)
  else if q2.Z = 0 then q1
  else
    let z1z1 := mulP q1.Z q1.Z
    let z2z2 := mulP q2.Z q2.Z
    let u1 := mulP q1.X z2z2
    let u2 := mulP q2.X z1z1
    let s1 := mulP (mulP q1.Y z2z2) q2.Z
    let s2 := mulP (mulP q2.Y z1z1) q1.Z
    let h := subP u2 u1
    let r := subP s2 s1
    if h = 0 then (if r = 0 then q1.dbl else Jac.infinity)
    else
      let hh := mulP h h
      let hhh := mulP h hh
      let v := mulP u1 hh
      let x3 := subP (subP (mulP r r) hhh) (mulP 2 v)
      { X := x3
        Y := subP (mulP r (subP v x3)) (mulP s1 hhh)
        Z := mulP (mulP h q1.Z) q2.Z }

/-- `jneg` (R95). -/
def Jac.neg (q : Jac) : Jac :=
  if q.Z = 0 then Jac.infinity else { X := q.X, Y := subP 0 q.Y, Z := q.Z }

/-- `jfroma` (R95). -/
def Jac.ofAffine : Pt → Jac
  | .inf => Jac.infinity
  | .fin x y => { X := x, Y := y, Z := 1 }

/-- `jtoa` (R95), with its one inversion. -/
def Jac.toAffine (q : Jac) : Pt :=
  if q.Z = 0 then .inf
  else
    let zi := invP q.Z
    let zi2 := mulP zi zi
    .fin (mulP q.X zi2) (mulP (mulP q.Y zi2) zi)

/-! ## The reference procedures of scalar multiplication -/

/-- `len` further odd multiples, each the previous one plus `d` (42_scalarmul.md R141). -/
def oddMultiples (d : Jac) : Nat → Jac → List Jac
  | 0, _ => []
  | len + 1, t =>
    let t' := t.add d
    t' :: oddMultiples d len t'

/-- `oddtable(Q, w)`: the odd multiples 1, 3, …, 2^(w-1) - 1 of a finite point, `2^(w-2)` entries (R141). -/
def oddTable (x y w : Nat) : List Jac :=
  let t1 := Jac.ofAffine (.fin x y)
  t1 :: oddMultiples t1.dbl (2 ^ (w - 2) - 1) t1

/-- The table entry `T[m]` of an odd multiple `m` (R141). -/
def tableEntry (table : List Jac) (m : Nat) : Jac := table.getD (m / 2) Jac.infinity

/-- Add the digit's multiple to the accumulator: a positive digit adds, a negative one adds the negated entry (R142). -/
def addDigit (table : List Jac) (z : Int) (acc : Jac) : Jac :=
  if z > 0 then acc.add (tableEntry table z.natAbs)
  else if z < 0 then acc.add (tableEntry table z.natAbs).neg
  else acc

/-- Accumulate digits from the most significant one: one doubling a step, then the digit (R142). -/
def accumulate (table : List Jac) (digits : List Int) : Jac :=
  digits.foldr (fun z acc => addDigit table z acc.dbl) Jac.infinity

/-- `smul_wnaf(k, Q, w)` (R142). -/
def smulWnaf (k : Nat) (q : Pt) (w : Nat) : Pt :=
  match q with
  | .inf => .inf
  | .fin x y => (accumulate (oddTable x y w) (wnaf k w)).toAffine

/-- A half-length term of the interleaved multiply-add: negate the sub-scalar and its point together (R144). -/
def glvTerm (h : Int) (q : Pt) : Nat × Pt := if h < 0 then (h.natAbs, q.neg) else (h.natAbs, q)

/-- The finite points whose tables `muladd_ref` uses for one operand, with their half scalars (R144). -/
def glvTerms (k : Nat) (q : Pt) : List (Nat × Pt) :=
  match q with
  | .inf => []
  | .fin x y =>
    let halves := glvsplit (k % Config.n)
    [glvTerm halves.1 (.fin x y), glvTerm halves.2 (Pt.fin x y).phi]

/-- The digits and the table of a term (R144). -/
def termTable (t : Nat × Pt) : List Int × List Jac :=
  match t.2 with
  | .inf => ([], [])
  | .fin x y => (wnaf t.1 Config.wDefault, oddTable x y Config.wDefault)

/-- One doubling serves all terms, then each term's digit of this weight (R144). -/
def interleaveStep (terms : List (List Int × List Jac)) (i : Nat) (acc : Jac) : Jac :=
  terms.foldl (fun acc t => addDigit t.2 (t.1.getD i 0) acc) acc.dbl

/-- Positions `i - 1` down to 0 (R144). -/
def interleaveLoop (terms : List (List Int × List Jac)) : Nat → Jac → Jac
  | 0, acc => acc
  | i + 1, acc => interleaveLoop terms i (interleaveStep terms i acc)

/-- `muladd_ref(k1, P1, k2, P2)` (R144). -/
def muladdRef (k1 : Nat) (p1 : Pt) (k2 : Nat) (p2 : Pt) : Pt :=
  let terms := (glvTerms k1 p1 ++ glvTerms k2 p2).map termTable
  (interleaveLoop terms (terms.foldl (fun m t => max m t.1.length) 0) Jac.infinity).toAffine

/-! ## Register forms -/

/-- The point an affine register holds, its coordinates unchecked (10_state.md R23). -/
def APoint.toPt (q : APoint) : Pt := if q.inf then .inf else .fin q.x.toNat q.y.toNat

/-- The register form of a point; infinity is written as `x = 0, y = 0, inf = 1` (10_state.md R23). -/
def APoint.ofPt : Pt → APoint
  | .inf => { x := 0, y := 0, inf := true }
  | .fin x y => { x := BitVec.ofNat 256 x, y := BitVec.ofNat 256 y, inf := false }

/-- The triple a Jacobian register holds (10_state.md R24). -/
def JPoint.toJac (q : JPoint) : Jac := { X := q.X.toNat, Y := q.Y.toNat, Z := q.Z.toNat }

/-- The register form of a triple. -/
def JPoint.ofJac (q : Jac) : JPoint :=
  { X := BitVec.ofNat 256 q.X, Y := BitVec.ofNat 256 q.Y, Z := BitVec.ofNat 256 q.Z }

end Sys2Proof.Machine
end

