-- ==== Sys2Proof/Machine/Flags.lean ====
section
/-! DEFINITION. Every flag computation (10_state.md R31) and the read-only views of the status registers (R31, R32,
20_memory.md R44). -/
namespace Sys2Proof.Machine

/-- Write `FLAGS.T`; the other flags keep their value (10_state.md R31). -/
def State.setT (s : State) (b : Bool) : State := { s with flags := { s.flags with t := b } }

/-- Write `FLAGS.N1` and `FLAGS.N2`, the signs of the two half scalars; `T` keeps its value (R31, 42_scalarmul.md R139).
A zero half is not negative. -/
def State.setHalfSigns (s : State) (k1 k2 : Int) : State :=
  { s with flags := { s.flags with n1 := decide (k1 < 0), n2 := decide (k2 < 0) } }

/-- Point equality, the predicate of `PEQ` (41_point.md R100). -/
def samePoint (q1 q2 : Pt) : Bool := decide (q1 = q2)

/-- `FLAGS` as the host reads it: `T`, `N1`, `N2` in bits 0, 1, 2, zero above (R31). -/
def State.flagsWord (s : State) : Word32 :=
  BitVec.ofNat 32 (s.flags.t.toNat + 2 * s.flags.n1.toNat + 4 * s.flags.n2.toNat)

/-- `STATUS` as the host reads it: `ERR` in bit 0, `ERRCODE` in bits 15:8, `HACTIVE` in bit 16, `HHMAC` in bit 17, `HALG` in
bits 19:18, zero elsewhere (R32). -/
def State.statusWord (s : State) : Word32 :=
  BitVec.ofNat 32 (s.err.toNat + 2 ^ 8 * s.errcode.toNat + 2 ^ 16 * s.hc.active.toNat + 2 ^ 17 * s.hc.hmac.toNat
    + 2 ^ 18 * s.hc.alg.code)

/-- `HCTL` as the host reads it: `active` in bit 0, `hmac` in bit 1, `alg` in bits 3:2, `npend` in bits 14:8, zero elsewhere
(20_memory.md R44). -/
def State.hctlWord (s : State) : Word32 :=
  BitVec.ofNat 32 (s.hc.active.toNat + 2 * s.hc.hmac.toNat + 2 ^ 2 * s.hc.alg.code + 2 ^ 8 * s.hc.npend.toNat)

end Sys2Proof.Machine
end

