-- ==== Sys2Proof/Machine/HashCore.lean ====
section
/-! DEFINITION. The four compression cores (45_hash_cores.md R220 to R229) and the parameters of the algorithms
(44_hash.md R191). A core is a pure function of the chaining words and one block (R220). -/
namespace Sys2Proof.Machine

/-! ## Parameters (44_hash.md R191) -/

/-- Block size `bs` in bytes. -/
def blockSize : HashAlg → Nat
  | .sha256 => 64 | .sha512 => 128 | .rmd160 => 64 | .sha1 => 64

/-- Digest length `out` in bytes. -/
def digestLen : HashAlg → Nat
  | .sha256 => 32 | .sha512 => 64 | .rmd160 => 20 | .sha1 => 20

/-- Width `lenf` of the length field in bytes. -/
def lenField : HashAlg → Nat
  | .sha256 => 8 | .sha512 => 16 | .rmd160 => 8 | .sha1 => 8

/-- Number `nw` of chaining words. -/
def chainWords : HashAlg → Nat
  | .sha256 => 8 | .sha512 => 8 | .rmd160 => 5 | .sha1 => 5

/-- Byte order `end` of words and of the length field: true for little-endian. -/
def littleEndian : HashAlg → Bool
  | .sha256 => false | .sha512 => false | .rmd160 => true | .sha1 => false

/-- `IV(alg)` in its eight cells (45_hash_cores.md R221, R223, R225, R227). -/
def iv : HashAlg → Vector Word64 8
  | .sha256 => ⟨Config.ivSha256.toArray, rfl⟩
  | .sha512 => ⟨Config.ivSha512.toArray, rfl⟩
  | .rmd160 => ⟨Config.ivRmd160.toArray, rfl⟩
  | .sha1 => ⟨Config.ivRmd160.toArray, rfl⟩

/-! ## Words and bytes -/

/-- The first `count` words of a block, `size` bytes each, big-endian. -/
def wordsBE (w size : Nat) : Nat → List Byte → List (BitVec w)
  | 0, _ => []
  | count + 1, bs => BitVec.ofNat w (be (bs.take size)) :: wordsBE w size count (bs.drop size)

/-- The first `count` words of a block, `size` bytes each, little-endian. -/
def wordsLE (w size : Nat) : Nat → List Byte → List (BitVec w)
  | 0, _ => []
  | count + 1, bs => BitVec.ofNat w (le (bs.take size)) :: wordsLE w size count (bs.drop size)

/-- The low 32 bits of a cell (10_state.md R34). -/
def low32 (x : Word64) : Word32 := x.setWidth 32

/-! ## SHA-2: SHA-256 on 32-bit words, SHA-512 on 64-bit words -/

/-- The eight working variables. -/
structure Sha2Vars (w : Nat) where
  a : BitVec w
  b : BitVec w
  c : BitVec w
  d : BitVec w
  e : BitVec w
  f : BitVec w
  g : BitVec w
  h : BitVec w

/-- `len` further schedule words, the newest first in the list (R222, R224). -/
def sha2Extend {w : Nat} (s0 s1 : BitVec w → BitVec w) : Nat → List (BitVec w) → List (BitVec w)
  | 0, ws => ws
  | len + 1, ws =>
    sha2Extend s0 s1 len ((s1 (ws.getD 1 0) + ws.getD 6 0 + s0 (ws.getD 14 0) + ws.getD 15 0) :: ws)

/-- One round with the constant `k` and the schedule word `wt` (R222, R224). -/
def sha2Round {w : Nat} (bigS0 bigS1 : BitVec w → BitVec w) (v : Sha2Vars w) (k wt : BitVec w) : Sha2Vars w :=
  let ch := (v.e &&& v.f) ^^^ (~~~v.e &&& v.g)
  let t1 := v.h + bigS1 v.e + ch + k + wt
  let maj := (v.a &&& v.b) ^^^ (v.a &&& v.c) ^^^ (v.b &&& v.c)
  let t2 := bigS0 v.a + maj
  { a := t1 + t2, b := v.a, c := v.b, d := v.c, e := v.d + t1, f := v.e, g := v.f, h := v.g }

/-- All rounds, over the constants and the schedule words together. -/
def sha2Rounds {w : Nat} (bigS0 bigS1 : BitVec w → BitVec w) : List (BitVec w) → List (BitVec w) → Sha2Vars w → Sha2Vars w
  | k :: ks, wt :: ws, v => sha2Rounds bigS0 bigS1 ks ws (sha2Round bigS0 bigS1 v k wt)
  | _, _, v => v

/-- SHA-256 compression (R222). -/
def compressSha256 (h : Vector Word64 8) (block : List Byte) : Vector Word64 8 :=
  let s0 := fun x : Word32 => x.rotateRight 7 ^^^ x.rotateRight 18 ^^^ (x >>> 3)
  let s1 := fun x : Word32 => x.rotateRight 17 ^^^ x.rotateRight 19 ^^^ (x >>> 10)
  let bigS0 := fun x : Word32 => x.rotateRight 2 ^^^ x.rotateRight 13 ^^^ x.rotateRight 22
  let bigS1 := fun x : Word32 => x.rotateRight 6 ^^^ x.rotateRight 11 ^^^ x.rotateRight 25
  let ws := (sha2Extend s0 s1 48 (wordsBE 32 4 16 block).reverse).reverse
  let v := sha2Rounds bigS0 bigS1 Config.k256 ws
    { a := low32 h[0], b := low32 h[1], c := low32 h[2], d := low32 h[3],
      e := low32 h[4], f := low32 h[5], g := low32 h[6], h := low32 h[7] }
  #v[(low32 h[0] + v.a).setWidth 64, (low32 h[1] + v.b).setWidth 64, (low32 h[2] + v.c).setWidth 64,
     (low32 h[3] + v.d).setWidth 64, (low32 h[4] + v.e).setWidth 64, (low32 h[5] + v.f).setWidth 64,
     (low32 h[6] + v.g).setWidth 64, (low32 h[7] + v.h).setWidth 64]

/-- SHA-512 compression (R224). -/
def compressSha512 (h : Vector Word64 8) (block : List Byte) : Vector Word64 8 :=
  let s0 := fun x : Word64 => x.rotateRight 1 ^^^ x.rotateRight 8 ^^^ (x >>> 7)
  let s1 := fun x : Word64 => x.rotateRight 19 ^^^ x.rotateRight 61 ^^^ (x >>> 6)
  let bigS0 := fun x : Word64 => x.rotateRight 28 ^^^ x.rotateRight 34 ^^^ x.rotateRight 39
  let bigS1 := fun x : Word64 => x.rotateRight 14 ^^^ x.rotateRight 18 ^^^ x.rotateRight 41
  let ws := (sha2Extend s0 s1 64 (wordsBE 64 8 16 block).reverse).reverse
  let v := sha2Rounds bigS0 bigS1 Config.k512 ws
    { a := h[0], b := h[1], c := h[2], d := h[3], e := h[4], f := h[5], g := h[6], h := h[7] }
  #v[h[0] + v.a, h[1] + v.b, h[2] + v.c, h[3] + v.d, h[4] + v.e, h[5] + v.f, h[6] + v.g, h[7] + v.h]

/-! ## RIPEMD-160 and SHA-1: five working variables -/

/-- The five working variables of a line. -/
structure Vars5 where
  a : Word32
  b : Word32
  c : Word32
  d : Word32
  e : Word32

/-- The boolean function of group `g` (R225). -/
def rmdF (g : Nat) (x y z : Word32) : Word32 :=
  match g with
  | 0 => x ^^^ y ^^^ z
  | 1 => (x &&& y) ||| (~~~x &&& z)
  | 2 => (x ||| ~~~y) ^^^ z
  | 3 => (x &&& z) ||| (y &&& ~~~z)
  | _ => x ^^^ (y ||| ~~~z)

/-- One step of a line: boolean function `f`, message word `x`, added constant `k`, rotation `s` (R226). -/
def rmdStep (v : Vars5) (f : Word32) (x k : Word32) (s : Nat) : Vars5 :=
  let t := (v.a + f + x + k).rotateLeft s + v.e
  { a := v.e, b := t, c := v.b, d := v.c.rotateLeft 10, e := v.d }

/-- Step `j` of both lines (R226). -/
def rmdBoth (xs : List Word32) (v : Vars5 × Vars5) (j : Nat) : Vars5 × Vars5 :=
  let g := j / 16
  (rmdStep v.1 (rmdF g v.1.b v.1.c v.1.d) (xs.getD (Config.rl.getD j 0) 0) (Config.kl.getD g 0) (Config.sl.getD j 0),
   rmdStep v.2 (rmdF (4 - g) v.2.b v.2.c v.2.d) (xs.getD (Config.rr.getD j 0) 0) (Config.kr.getD g 0) (Config.sr.getD j 0))

/-- Five chaining words from cells. -/
def vars5 (h : Vector Word64 8) : Vars5 :=
  { a := low32 h[0], b := low32 h[1], c := low32 h[2], d := low32 h[3], e := low32 h[4] }

/-- Five chaining words into cells, the unused three zero (10_state.md R34). -/
def cells5 (v : Vars5) : Vector Word64 8 :=
  #v[v.a.setWidth 64, v.b.setWidth 64, v.c.setWidth 64, v.d.setWidth 64, v.e.setWidth 64, 0, 0, 0]

/-- RIPEMD-160 compression (R226). -/
def compressRmd160 (h : Vector Word64 8) (block : List Byte) : Vector Word64 8 :=
  let xs := wordsLE 32 4 16 block
  let hv := vars5 h
  let v := (List.range 80).foldl (rmdBoth xs) (hv, hv)
  cells5 { a := hv.b + v.1.c + v.2.d, b := hv.c + v.1.d + v.2.e, c := hv.d + v.1.e + v.2.a, d := hv.e + v.1.a + v.2.b,
           e := hv.a + v.1.b + v.2.c }

/-- `len` further SHA-1 schedule words, the newest first (R228). -/
def sha1Extend : Nat → List Word32 → List Word32
  | 0, ws => ws
  | len + 1, ws =>
    sha1Extend len ((ws.getD 2 0 ^^^ ws.getD 7 0 ^^^ ws.getD 13 0 ^^^ ws.getD 15 0).rotateLeft 1 :: ws)

/-- The boolean function of round `t` (R228). -/
def sha1F (t : Nat) (b c d : Word32) : Word32 :=
  if t < 20 then (b &&& c) ||| (~~~b &&& d)
  else if t < 40 then b ^^^ c ^^^ d
  else if t < 60 then (b &&& c) ||| (b &&& d) ||| (c &&& d)
  else b ^^^ c ^^^ d

/-- Rounds `t`, `t + 1`, … over the remaining schedule words (R228). -/
def sha1Rounds : Nat → List Word32 → Vars5 → Vars5
  | _, [], v => v
  | t, wt :: ws, v =>
    let x := v.a.rotateLeft 5 + sha1F t v.b v.c v.d + v.e + Config.k1.getD (t / 20) 0 + wt
    sha1Rounds (t + 1) ws { a := x, b := v.a, c := v.b.rotateLeft 30, d := v.c, e := v.d }

/-- SHA-1 compression (R228). -/
def compressSha1 (h : Vector Word64 8) (block : List Byte) : Vector Word64 8 :=
  let ws := (sha1Extend 64 (wordsBE 32 4 16 block).reverse).reverse
  let hv := vars5 h
  let v := sha1Rounds 0 ws hv
  cells5 { a := hv.a + v.a, b := hv.b + v.b, c := hv.c + v.c, d := hv.d + v.d, e := hv.e + v.e }

/-! ## The cores by selector, and the digest -/

/-- `compress(alg, H, B)` (44_hash.md R193). -/
def compress : HashAlg → Vector Word64 8 → List Byte → Vector Word64 8
  | .sha256 => compressSha256
  | .sha512 => compressSha512
  | .rmd160 => compressRmd160
  | .sha1 => compressSha1

/-- One chaining word as digest bytes (R229). -/
def packWord (alg : HashAlg) (x : Word64) : List Byte :=
  match alg with
  | .sha256 => tobe (low32 x).toNat 4
  | .sha512 => tobe x.toNat 8
  | .rmd160 => tole (low32 x).toNat 4
  | .sha1 => tobe (low32 x).toNat 4

/-- `pack(alg, H)` (R229). -/
def pack (alg : HashAlg) (h : Vector Word64 8) : List Byte :=
  (h.toList.take (chainWords alg)).flatMap (packWord alg)

end Sys2Proof.Machine
end

