-- ==== Sys2Proof/Machine/HashFn.lean ====
section
/-! DEFINITION. The block-hash state machine as functions (44_hash.md R192 to R194) and HMAC (R201). -/
namespace Sys2Proof.Machine

/-- `pad(alg, total)` (44_hash.md R192). -/
def pad (alg : HashAlg) (total : Nat) : List Byte :=
  let k := ((blockSize alg : Int) - lenField alg - 1 - total) % blockSize alg
  let len := if littleEndian alg then tole (total * 8) (lenField alg) else tobe (total * 8) (lenField alg)
  0x80 :: zeros k.toNat ++ len

/-- Compress `count` consecutive blocks from the front of `buf` (R193, R194). -/
def compressBlocks (alg : HashAlg) : Nat → Vector Word64 8 → List Byte → Vector Word64 8
  | 0, h, _ => h
  | count + 1, h, buf => compressBlocks alg count (compress alg h (buf.take (blockSize alg))) (buf.drop (blockSize alg))

/-- The pending bytes of a context, `pend[0..npend-1]` (10_state.md R34). -/
def HashCtx.pending (hc : HashCtx) : List Byte := hc.pend.toList.take hc.npend.toNat

/-- `absorb` after its length test (R193). -/
def absorbBytes (hc : HashCtx) (data : List Byte) : HashCtx :=
  let buf := hc.pending ++ data
  let q := buf.length / blockSize hc.alg
  let rest := buf.drop (q * blockSize hc.alg)
  { hc with
    h := compressBlocks hc.alg q hc.h buf
    hlen := BitVec.ofNat 64 (hc.hlen.toNat + data.length)
    npend := BitVec.ofNat 7 rest.length
    pend := pad128 rest }

/-- `absorb(hc, D)` (R193). -/
def absorb (hc : HashCtx) (data : List Byte) : Except ErrCode HashCtx :=
  if hc.hlen.toNat + data.length ≥ 2 ^ 61 then .error .hashLen else .ok (absorbBytes hc data)

/-- `finalize(hc)` (R194). -/
def finalize (hc : HashCtx) : List Byte :=
  let buf := hc.pending ++ pad hc.alg hc.hlen.toNat
  pack hc.alg (compressBlocks hc.alg (buf.length / blockSize hc.alg) hc.h buf)

/-- A fresh context: active, nothing absorbed, the initial value in the chaining words (R195, R202). -/
def freshCtx (alg : HashAlg) (hmac : Bool) : HashCtx :=
  { HashCtx.idle with active := true, hmac := hmac, alg := alg, h := iv alg }

/-- `hash(alg, M)` (R194), a private computation (log entry 14). -/
def hash (alg : HashAlg) (msg : List Byte) : List Byte := finalize (absorbBytes (freshCtx alg false) msg)

/-- Every byte XORed with `c` (R201). -/
def xorBytes (c : Byte) (bs : List Byte) : List Byte := bs.map (· ^^^ c)

/-- `k0`: the key, pre-hashed when longer than a block, zero-padded to the block size (R201). -/
def blockKey (alg : HashAlg) (key : List Byte) : List Byte :=
  let key := if key.length > blockSize alg then hash alg key else key
  key ++ zeros (blockSize alg - key.length)

/-- `hmac(alg, key, M)` (R201). -/
def hmac (alg : HashAlg) (key msg : List Byte) : List Byte :=
  let k0 := blockKey alg key
  hash alg (xorBytes 0x5C k0 ++ hash alg (xorBytes 0x36 k0 ++ msg))

end Sys2Proof.Machine
end

