-- ==== Sys2Proof/Machine/Operands.lean ====
section
/-! DEFINITION. Every operand form of a command, with the check its rule makes on it (00_scope.md R15, 41_point.md R90): an
operand is either the value the command computes with, or the fault it raises. -/
namespace Sys2Proof.Machine

/-- A field operand: an integer register below `p` (`check_fp`, 00_scope.md R15, 40_field.md R70). -/
def fieldOperand (s : State) (i : RIdx) : Except ErrCode Nat :=
  if s.natR i < Config.p then .ok (s.natR i) else .error .range

/-- An order operand: an integer register below `n` (`check_fn`, R15, R70). -/
def orderOperand (s : State) (i : RIdx) : Except ErrCode Nat :=
  if s.natR i < Config.n then .ok (s.natR i) else .error .range

/-- A private key: an integer register in `[1, n-1]` (43_ecdsa.md R174, R177). -/
def keyOperand (s : State) (i : RIdx) : Except ErrCode Nat :=
  if 1 ≤ s.natR i ∧ s.natR i < Config.n then .ok (s.natR i) else .error .range

/-- `check_point(Q)` (00_scope.md R15): the point a register holds, for a group command. -/
def checkPoint (q : APoint) : Except ErrCode Pt :=
  if q.inf then .ok .inf
  else if Config.p ≤ q.x.toNat ∨ Config.p ≤ q.y.toNat then .error .range
  else if q.y.toNat * q.y.toNat % Config.p = (q.x.toNat * q.x.toNat * q.x.toNat + 7) % Config.p then
    .ok (.fin q.x.toNat q.y.toNat)
  else .error .invalidPoint

/-- A point operand of a group command (41_point.md R90). -/
def pointOperand (s : State) (i : AIdx) : Except ErrCode Pt := checkPoint (s.getA i)

/-- A point operand of a coordinate command: the range test alone (41_point.md R90, R105). -/
def coordOperand (s : State) (i : AIdx) : Except ErrCode Pt :=
  let q := s.getA i
  if q.inf then .ok .inf
  else if Config.p ≤ q.x.toNat ∨ Config.p ≤ q.y.toNat then .error .range
  else .ok (.fin q.x.toNat q.y.toNat)

/-- A Jacobian operand: all three coordinates canonical, also when `Z = 0` (41_point.md R106 to R109). -/
def jacOperand (s : State) (i : JIdx) : Except ErrCode Jac :=
  let q := s.getJ i
  if q.X.toNat < Config.p ∧ q.Y.toNat < Config.p ∧ q.Z.toNat < Config.p then .ok q.toJac else .error .range

/-- The register of a finite point, for a command that reads a coordinate (46_move.md R248, 41_point.md R101). -/
def finiteOperand (s : State) (i : AIdx) : Except ErrCode APoint :=
  if (s.getA i).inf then .error .infinity else .ok (s.getA i)

/-- A byte string operand in DBUF (20_memory.md R41). -/
def bufOperand (s : State) (off len : Nat) : Except ErrCode (List Byte) := do
  checkBuf off len
  .ok (s.memRead off len)

/-- The value of a loadable constant (10_state.md R36, 46_move.md R246). -/
def constValue : CurveConst → Nat
  | .p => Config.p | .n => Config.n | .gx => Config.gx | .gy => Config.gy
  | .beta => Config.beta | .lambda => Config.lambda | .sqrtExp => Config.sqrtExp | .halfN => Config.halfN

end Sys2Proof.Machine
end

