-- ==== Sys2Proof/Machine/Ecdsa.lean ====
section
/-! DEFINITION. Truncation, the deterministic nonce generator, signing and verification (43_ecdsa.md R171 to R179). -/
namespace Sys2Proof.Machine

/-! ## The generator (43_ecdsa.md R172) -/

/-- The generator's state, private to one command (43_ecdsa.md R173). -/
structure Drbg where
  key : List Byte
  v : List Byte
deriving DecidableEq, Repr

/-- `HM(K, M)`: HMAC with SHA-256 (R172). -/
def hm (key msg : List Byte) : List Byte := hmac .sha256 key msg

/-- One half of an update: `K <- HM(K, V ‖ sep ‖ seed)`, `V <- HM(K, V)`. -/
def drbgMix (g : Drbg) (sep : Byte) (seed : List Byte) : Drbg :=
  let key := hm g.key (g.v ++ sep :: seed)
  { key := key, v := hm key g.v }

/-- `drbg_update` (R172). -/
def drbgUpdate (g : Drbg) (seed : List Byte) : Drbg :=
  let g := drbgMix g 0x00 seed
  match seed with
  | [] => g
  | _ :: _ => drbgMix g 0x01 seed

/-- `drbg_init(key, z)` (R172). -/
def drbgInit (key z : Nat) : Drbg :=
  drbgUpdate { key := zeros 32, v := List.replicate 32 0x01 } (tobe key 32 ++ tobe z 32)

/-- `drbg_generate` (R172): the candidate and the next state. -/
def drbgGenerate (g : Drbg) : Nat × Drbg :=
  let v := hm g.key g.v
  (be v, drbgUpdate { g with v := v } [])

/-- The candidate of iteration `i` from a state (R172, R174). -/
def drbgCandidate (g : Drbg) : Nat → Nat
  | 0 => (drbgGenerate g).1
  | i + 1 => drbgCandidate (drbgGenerate g).2 i

/-! ## Signing (R176) -/

/-- What one candidate nonce gives: the signature, or the named reason to reject it (R176). -/
def tryNonce (key z : Nat) (lowS : Bool) (k : Nat) : Except ErrCode (Nat × Nat) :=
  if k ≤ 1 ∨ k ≥ Config.n - 1 then .error .kRange
  else
    match smul k Pt.gen with
    | .inf => .error .kInfinity
    | .fin rx _ =>
      let r := rx % Config.n
      if r = 0 then .error .kZeroR
      else
        let sv := mulN (invN k) ((r * key + z) % Config.n)
        if sv = 0 then .error .kZeroS
        else .ok (r, if lowS = true ∧ sv > Config.halfN then Config.n - sv else sv)

/-- The search over at most `fuel` generated candidates (R176, source 0). -/
def signDrbg (key z : Nat) (lowS : Bool) : Nat → Drbg → Except ErrCode (Nat × Nat)
  | 0, _ => .error .nonceExhausted
  | fuel + 1, g =>
    match tryNonce key z lowS (drbgGenerate g).1 with
    | .ok sig => .ok sig
    | .error _ => signDrbg key z lowS fuel (drbgGenerate g).2

/-- The search over listed candidates (R176, source 2). -/
def signTable (key z : Nat) (lowS : Bool) : List Nat → Except ErrCode (Nat × Nat)
  | [] => .error .nonceExhausted
  | k :: ks =>
    match tryNonce key z lowS k with
    | .ok sig => .ok sig
    | .error _ => signTable key z lowS ks

/-- The candidates tabulated in DBUF: `cnt` big-endian 32-byte integers from offset 0 (R175). -/
def nonceTable (s : State) (cnt : Nat) : List Nat := (List.range cnt).map fun i => be (s.memRead (32 * i) 32)

/-- `sign` (R176), by nonce source (R175). -/
def signWith (s : State) (key z : Nat) (lowS : Bool) : NonceSrc → Except ErrCode (Nat × Nat)
  | .drbg => signDrbg key z lowS Config.signMaxIter (drbgInit key z)
  | .fixed rc => tryNonce key z lowS (s.natR rc)
  | .table cnt => signTable key z lowS (nonceTable s cnt.toNat)

/-! ## Verification (R178) -/

/-- `verify(msg, r, s, Q)` for a finite point on the curve (R178). -/
def verify (msg r sv : Nat) (q : Pt) : Bool :=
  if r = 0 ∨ r ≥ Config.n ∨ sv = 0 ∨ sv ≥ Config.n then false
  else
    let w := invN sv
    match muladd (msg * w % Config.n) Pt.gen (r * w % Config.n) q with
    | .inf => false
    | .fin x _ => decide (x % Config.p % Config.n = r)

/-! ## The commands -/

/-- `TRUNCN rd, ra, truncOnly` (R171). -/
def execTruncn (rd ra : RIdx) (truncOnly : Bool) (s : State) : Host.Outcome State Fault Refusal :=
  command (.truncn rd ra truncOnly) s (.ok (s.setNatR rd (truncateToN (s.pair ra) truncOnly)))

/-- `DRBGK rd, rmsg, rkey, iter` (R174). -/
def execDrbgk (rd rmsg rkey : RIdx) (iter : Byte) (s : State) : Host.Outcome State Fault Refusal :=
  command (.drbgk rd rmsg rkey iter) s do
    let key ← keyOperand s rkey
    .ok (s.setNatR rd (drbgCandidate (drbgInit key (truncateToN (s.natR rmsg) false)) iter.toNat))

/-- `SIGN rd, rmsg, rkey, lowS, source` (R177): `r` to `r[d]`, `s` to `r[d+1]`. -/
def execSign (rd rmsg rkey : RIdx) (lowS : Bool) (src : NonceSrc) (s : State) : Host.Outcome State Fault Refusal :=
  command (.sign rd rmsg rkey lowS src) s do
    let key ← keyOperand s rkey
    let sig ← signWith s key (truncateToN (s.natR rmsg) false) lowS src
    .ok ((s.setNatR rd sig.1).setNatR (pairHigh rd) sig.2)

/-- `VERIFY rmsg, rr, rs, aq` (R179): a malformed public key faults, a bad signature clears `T`. -/
def execVerify (rmsg rr rs : RIdx) (aq : AIdx) (s : State) : Host.Outcome State Fault Refusal :=
  command (.verify rmsg rr rs aq) s do
    let _ ← finiteOperand s aq
    let q ← pointOperand s aq
    .ok (s.setT (verify (s.natR rmsg) (s.natR rr) (s.natR rs) q))

end Sys2Proof.Machine
end

