-- ==== Sys2Proof/Machine/Field.lean ====
section
/-! DEFINITION. The field-p and order-n arithmetic commands (40_field.md R74 to R83). -/
namespace Sys2Proof.Machine

/-- `ADDP rd, ra, rb` (40_field.md R74). -/
def execAddp (rd ra rb : RIdx) (s : State) : Host.Outcome State Fault Refusal :=
  command (.addp rd ra rb) s do
    let x ← fieldOperand s ra
    let y ← fieldOperand s rb
    .ok (s.setNatR rd (addP x y))

/-- `SUBP rd, ra, rb` (R75). -/
def execSubp (rd ra rb : RIdx) (s : State) : Host.Outcome State Fault Refusal :=
  command (.subp rd ra rb) s do
    let x ← fieldOperand s ra
    let y ← fieldOperand s rb
    .ok (s.setNatR rd (subP x y))

/-- `MULP rd, ra, rb` (R76), through the two-fold reducer. -/
def execMulp (rd ra rb : RIdx) (s : State) : Host.Outcome State Fault Refusal :=
  command (.mulp rd ra rb) s do
    let x ← fieldOperand s ra
    let y ← fieldOperand s rb
    .ok (s.setNatR rd (redp (x * y)))

/-- `INVP rd, ra` (R77): the range test before the zero test. -/
def execInvp (rd ra : RIdx) (s : State) : Host.Outcome State Fault Refusal :=
  command (.invp rd ra) s do
    let x ← fieldOperand s ra
    require (x ≠ 0) .invZero
    .ok (s.setNatR rd (invP x))

/-- `POWP rd, ra, rb` (R78): the exponent is any 256-bit value. -/
def execPowp (rd ra rb : RIdx) (s : State) : Host.Outcome State Fault Refusal :=
  command (.powp rd ra rb) s do
    let x ← fieldOperand s ra
    .ok (s.setNatR rd (powp x (s.natR rb)))

/-- `SQRTP rd, ra` (R79): without a root `T` is cleared and the destination keeps its value. -/
def execSqrtp (rd ra : RIdx) (s : State) : Host.Outcome State Fault Refusal :=
  command (.sqrtp rd ra) s do
    let x ← fieldOperand s ra
    match sqrtp x with
    | some t => .ok ((s.setNatR rd t).setT true)
    | none => .ok (s.setT false)

/-- `REDP rd, ra` (R80): every 512-bit value. -/
def execRedp (rd ra : RIdx) (s : State) : Host.Outcome State Fault Refusal :=
  command (.redp rd ra) s (.ok (s.setNatR rd (redp (s.pair ra))))

/-- `MULN rd, ra, rb` (R81). -/
def execMuln (rd ra rb : RIdx) (s : State) : Host.Outcome State Fault Refusal :=
  command (.muln rd ra rb) s do
    let x ← orderOperand s ra
    let y ← orderOperand s rb
    .ok (s.setNatR rd (mulN x y))

/-- `INVN rd, ra` (R82). -/
def execInvn (rd ra : RIdx) (s : State) : Host.Outcome State Fault Refusal :=
  command (.invn rd ra) s do
    let x ← orderOperand s ra
    require (x ≠ 0) .invZero
    .ok (s.setNatR rd (invN x))

/-- `REDN rd, ra` (R83). -/
def execRedn (rd ra : RIdx) (s : State) : Host.Outcome State Fault Refusal :=
  command (.redn rd ra) s (.ok (s.setNatR rd (s.pair ra % Config.n)))

end Sys2Proof.Machine
end

