-- ==== Sys2Proof/Machine/Hash.lean ====
section
/-! DEFINITION. The hash and HMAC commands (44_hash.md R195 to R203). -/
namespace Sys2Proof.Machine

/-- Write the context and the HMAC key. -/
def State.setHash (s : State) (hc : HashCtx) (hkey : Vector Byte 128) : State := { s with hc := hc, hkey := hkey }

/-- Destroy the context: every field and the key zero (44_hash.md R196). -/
def State.destroyHash (s : State) : State := s.setHash HashCtx.idle (pad128 [])

/-- A plain hash is open: the state test of `HDIGEST` (R198). -/
def requireHashing (s : State) : Except ErrCode Unit := require (s.hc.active = true ∧ s.hc.hmac = false) .hashState

/-- `HINIT alg` (R195): any open computation is discarded. -/
def execHinit (alg : HashAlg) (s : State) : Host.Outcome State Fault Refusal :=
  command (.hinit alg) s (.ok (s.setHash (freshCtx alg false) (pad128 [])))

/-- `HUPDATE off, len` (R197). -/
def execHupdate (off len : BitVec 12) (s : State) : Host.Outcome State Fault Refusal :=
  command (.hupdate off len) s do
    let bytes ← bufOperand s off.toNat len.toNat
    require (s.hc.active = true) .hashState
    let hc ← absorb s.hc bytes
    .ok (s.setHash hc s.hkey)

/-- `HDIGEST off` (R198): the state test before the buffer range. -/
def execHdigest (off : Off) (s : State) : Host.Outcome State Fault Refusal :=
  command (.hdigest off) s do
    requireHashing s
    checkBuf off.toNat (digestLen s.hc.alg)
    .ok ((s.memWrite off.toNat (finalize s.hc)).destroyHash)

/-- `HDIGEST.H256 off` (R199): SHA-256 of the SHA-256 digest. -/
def execHdigestH256 (off : Off) (s : State) : Host.Outcome State Fault Refusal :=
  command (.hdigestH256 off) s do
    requireHashing s
    require (s.hc.alg = .sha256) .hashState
    checkBuf off.toNat 32
    .ok ((s.memWrite off.toNat (hash .sha256 (finalize s.hc))).destroyHash)

/-- `HDIGEST.H160 off` (R200): RIPEMD-160 of the SHA-256 digest. -/
def execHdigestH160 (off : Off) (s : State) : Host.Outcome State Fault Refusal :=
  command (.hdigestH160 off) s do
    requireHashing s
    require (s.hc.alg = .sha256) .hashState
    checkBuf off.toNat 20
    .ok ((s.memWrite off.toNat (hash .rmd160 (finalize s.hc))).destroyHash)

/-- `HMACINIT alg, off, len` (R202): the inner pad block is absorbed at once. -/
def execHmacinit (alg : HashAlg) (off : Off) (len : Byte) (s : State) : Host.Outcome State Fault Refusal :=
  command (.hmacinit alg off len) s do
    let key ← bufOperand s off.toNat len.toNat
    let k0 := blockKey alg key
    .ok (s.setHash (absorbBytes (freshCtx alg true) (xorBytes 0x36 k0)) (pad128 k0))

/-- `HMACFINAL off` (R203). -/
def execHmacfinal (off : Off) (s : State) : Host.Outcome State Fault Refusal :=
  command (.hmacfinal off) s do
    require (s.hc.active = true ∧ s.hc.hmac = true) .hashState
    checkBuf off.toNat (digestLen s.hc.alg)
    let k0 := s.hkey.toList.take (blockSize s.hc.alg)
    .ok ((s.memWrite off.toNat (hash s.hc.alg (xorBytes 0x5C k0 ++ finalize s.hc))).destroyHash)

end Sys2Proof.Machine
end

