-- ==== Sys2Proof/Machine/Move.lean ====
section
/-! DEFINITION. The data movement commands (46_move.md). Each meaning is its rule run by `command`. -/
namespace Sys2Proof.Machine

/-- `NOP` (46_move.md R241). -/
def execNop (s : State) : Host.Outcome State Fault Refusal := command .nop s (.ok s)

/-- `MOV rd, ra` (R242): no range check. -/
def execMov (rd ra : RIdx) (s : State) : Host.Outcome State Fault Refusal :=
  command (.mov rd ra) s (.ok (s.setR rd (s.getR ra)))

/-- `LDI rd, imm8` (R243). -/
def execLdi (rd : RIdx) (imm : Byte) (s : State) : Host.Outcome State Fault Refusal :=
  command (.ldi rd imm) s (.ok (s.setNatR rd imm.toNat))

/-- `LDC rd, CONST` (R246). -/
def execLdc (rd : RIdx) (c : CurveConst) (s : State) : Host.Outcome State Fault Refusal :=
  command (.ldc rd c) s (.ok (s.setNatR rd (constValue c)))

/-- `LDBE rd, off, len` (R244). -/
def execLdbe (rd : RIdx) (off : Off) (len : Byte) (s : State) : Host.Outcome State Fault Refusal :=
  command (.ldbe rd off len) s do
    let bytes ← bufOperand s off.toNat len.toNat
    .ok (s.setNatR rd (be bytes))

/-- `STBE rs, off, len` (R245): the buffer range before the value's. -/
def execStbe (rs : RIdx) (off : Off) (len : Byte) (s : State) : Host.Outcome State Fault Refusal :=
  command (.stbe rs off len) s do
    checkBuf off.toNat len.toNat
    require (s.natR rs < 256 ^ len.toNat) .range
    .ok (s.memWrite off.toNat (tobe (s.natR rs) len.toNat))

/-- `PSET ad, rx, ry` (R247): coordinates canonical, the curve not tested. -/
def execPset (ad : AIdx) (rx ry : RIdx) (s : State) : Host.Outcome State Fault Refusal :=
  command (.pset ad rx ry) s do
    let x ← fieldOperand s rx
    let y ← fieldOperand s ry
    .ok (s.setA ad (APoint.ofPt (.fin x y)))

/-- `PGETX rd, aa` (R248). -/
def execPgetx (rd : RIdx) (aa : AIdx) (s : State) : Host.Outcome State Fault Refusal :=
  command (.pgetx rd aa) s do
    let q ← finiteOperand s aa
    .ok (s.setR rd q.x)

/-- `PGETY rd, aa` (R249). -/
def execPgety (rd : RIdx) (aa : AIdx) (s : State) : Host.Outcome State Fault Refusal :=
  command (.pgety rd aa) s do
    let q ← finiteOperand s aa
    .ok (s.setR rd q.y)

/-- `PMOV ad, aa` (R250): all three fields, bit for bit. -/
def execPmov (ad aa : AIdx) (s : State) : Host.Outcome State Fault Refusal :=
  command (.pmov ad aa) s (.ok (s.setA ad (s.getA aa)))

/-- `PLDG ad` (R251). -/
def execPldg (ad : AIdx) (s : State) : Host.Outcome State Fault Refusal :=
  command (.pldg ad) s (.ok (s.setA ad (APoint.ofPt Pt.gen)))

/-- `PINF ad` (R252). -/
def execPinf (ad : AIdx) (s : State) : Host.Outcome State Fault Refusal :=
  command (.pinf ad) s (.ok (s.setA ad (APoint.ofPt .inf)))

/-- `JMOV jd, ja` (R253): the triple, bit for bit. -/
def execJmov (jd ja : JIdx) (s : State) : Host.Outcome State Fault Refusal :=
  command (.jmov jd ja) s (.ok (s.setJ jd (s.getJ ja)))

end Sys2Proof.Machine
end

