-- ==== Sys2Proof/Machine/Point.lean ====
section
/-! DEFINITION. The affine and Jacobian point commands and the SEC1 point codec (41_point.md R97 to R110). -/
namespace Sys2Proof.Machine

/-! ## Group commands -/

/-- `PADD ad, aa, ab` (41_point.md R97). -/
def execPadd (ad aa ab : AIdx) (s : State) : Host.Outcome State Fault Refusal :=
  command (.padd ad aa ab) s do
    let q1 ← pointOperand s aa
    let q2 ← pointOperand s ab
    .ok (s.setA ad (APoint.ofPt (q1.add q2)))

/-- `PDBL ad, aa` (R98). -/
def execPdbl (ad aa : AIdx) (s : State) : Host.Outcome State Fault Refusal :=
  command (.pdbl ad aa) s do
    let q ← pointOperand s aa
    .ok (s.setA ad (APoint.ofPt q.dbl))

/-- `PNEG ad, aa` (R99). -/
def execPneg (ad aa : AIdx) (s : State) : Host.Outcome State Fault Refusal :=
  command (.pneg ad aa) s do
    let q ← pointOperand s aa
    .ok (s.setA ad (APoint.ofPt q.neg))

/-- `PEQ aa, ab` (R100). -/
def execPeq (aa ab : AIdx) (s : State) : Host.Outcome State Fault Refusal :=
  command (.peq aa ab) s do
    let q1 ← pointOperand s aa
    let q2 ← pointOperand s ab
    .ok (s.setT (samePoint q1 q2))

/-! ## Validation and recovery -/

/-- `PVALID aa` (R101): infinity faults; a coordinate out of range only makes `T = 0`. -/
def execPvalid (aa : AIdx) (s : State) : Host.Outcome State Fault Refusal :=
  command (.pvalid aa) s do
    let q ← finiteOperand s aa
    .ok (s.setT (onCurve q.x.toNat q.y.toNat))

/-- The point with x coordinate `x` and the given parity, with the faults of `PFROMX` (R102). -/
def fromX (x : Nat) (odd : Bool) : Except ErrCode Pt :=
  if x < Config.p then
    match liftX x odd with
    | some q => .ok q
    | none => .error .invalidPoint
  else .error .range

/-- `PFROMX ad, rx, odd` (R102): `T` is not written. -/
def execPfromx (ad : AIdx) (rx : RIdx) (odd : Bool) (s : State) : Host.Outcome State Fault Refusal :=
  command (.pfromx ad rx odd) s do
    let q ← fromX (s.natR rx) odd
    .ok (s.setA ad (APoint.ofPt q))

/-! ## SEC1 codec (R110) -/

/-- Decode a byte string as a SEC1 point (R103). The 65-byte forms are not tested against the curve; the hybrid test is on the
last byte (90_conflicts.md C13). -/
def sec1Decode (bytes : List Byte) : Except ErrCode Pt :=
  let pf := bytes.getD 0 0
  let x := be ((bytes.drop 1).take 32)
  if (pf = 0x02 ∨ pf = 0x03) ∧ bytes.length = 33 then fromX x (pf.toNat % 2 == 1)
  else if (pf = 0x04 ∨ pf = 0x06 ∨ pf = 0x07) ∧ bytes.length = 65 then
    let y := be ((bytes.drop 33).take 32)
    let last := (bytes.getD 64 0).toNat
    if pf = 0x06 ∧ last % 2 ≠ 0 then .error .pointFormat
    else if pf = 0x07 ∧ last % 2 ≠ 1 then .error .pointFormat
    else if x < Config.p ∧ y < Config.p then .ok (.fin x y)
    else .error .range
  else .error .pointFormat

/-- Encode coordinates in `len` bytes, 33 for the compressed form, 65 for the uncompressed one (R104). -/
def sec1Encode (x y len : Nat) : List Byte :=
  if len = 33 then BitVec.ofNat 8 (0x02 + y % 2) :: tobe x 32 else 0x04 :: (tobe x 32 ++ tobe y 32)

/-- `PDEC ad, off, len` (R103). -/
def execPdec (ad : AIdx) (off : Off) (len : Byte) (s : State) : Host.Outcome State Fault Refusal :=
  command (.pdec ad off len) s do
    let bytes ← bufOperand s off.toNat len.toNat
    let q ← sec1Decode bytes
    .ok (s.setA ad (APoint.ofPt q))

/-- `PENC aa, off, len` (R104): buffer range, then infinity, then coordinate range; the curve is not tested. -/
def execPenc (aa : AIdx) (off : Off) (len : Byte) (s : State) : Host.Outcome State Fault Refusal :=
  command (.penc aa off len) s do
    checkBuf off.toNat len.toNat
    let q ← finiteOperand s aa
    require (q.x.toNat < Config.p ∧ q.y.toNat < Config.p) .range
    .ok (s.memWrite off.toNat (sec1Encode q.x.toNat q.y.toNat len.toNat))

/-! ## Jacobian commands -/

/-- `JFROMA jd, aa` (R105). -/
def execJfroma (jd : JIdx) (aa : AIdx) (s : State) : Host.Outcome State Fault Refusal :=
  command (.jfroma jd aa) s do
    let q ← coordOperand s aa
    .ok (s.setJ jd (JPoint.ofJac (Jac.ofAffine q)))

/-- `JTOA ad, ja` (R106). -/
def execJtoa (ad : AIdx) (ja : JIdx) (s : State) : Host.Outcome State Fault Refusal :=
  command (.jtoa ad ja) s do
    let q ← jacOperand s ja
    .ok (s.setA ad (APoint.ofPt q.toAffine))

/-- `JADD jd, ja, jb` (R107). -/
def execJadd (jd ja jb : JIdx) (s : State) : Host.Outcome State Fault Refusal :=
  command (.jadd jd ja jb) s do
    let q1 ← jacOperand s ja
    let q2 ← jacOperand s jb
    .ok (s.setJ jd (JPoint.ofJac (q1.add q2)))

/-- `JDBL jd, ja` (R108). -/
def execJdbl (jd ja : JIdx) (s : State) : Host.Outcome State Fault Refusal :=
  command (.jdbl jd ja) s do
    let q ← jacOperand s ja
    .ok (s.setJ jd (JPoint.ofJac q.dbl))

/-- `JNEG jd, ja` (R109). -/
def execJneg (jd ja : JIdx) (s : State) : Host.Outcome State Fault Refusal :=
  command (.jneg jd ja) s do
    let q ← jacOperand s ja
    .ok (s.setJ jd (JPoint.ofJac q.neg))

end Sys2Proof.Machine
end

