-- ==== Sys2Proof/Machine/ScalarMul.lean ====
section
/-! DEFINITION. Recoding, the endomorphism and scalar multiplication (42_scalarmul.md R133 to R145), with the filling of the
hidden wNAF table cache (10_state.md R39). -/
namespace Sys2Proof.Machine

/-! ## The hidden cache: written, never read by a result (R39; log entry 6) -/

/-- The entry that rule R141 computes for a finite point and a window. -/
def cacheEntry (w x y : Nat) : CacheEntry :=
  { w := BitVec.ofNat 8 w, x := BitVec.ofNat 256 x, y := BitVec.ofNat 256 y, table := (oddTable x y w).map JPoint.ofJac }

/-- Put an entry first, drop an older one of the same key, keep the capacity (least recently used out). -/
def cacheInsert (e : CacheEntry) (cache : List CacheEntry) : List CacheEntry :=
  (e :: cache.filter fun f => !(f.w == e.w && f.x == e.x && f.y == e.y)).take Config.wnafCacheEntries

/-- Record the table of a point; infinity has none. -/
def State.touchTable (s : State) (w : Nat) (q : Pt) : State :=
  match q with
  | .inf => s
  | .fin x y => { s with wnafCache := cacheInsert (cacheEntry w x y) s.wnafCache }

/-- Record the tables of a multiply-add's terms, all with the default window (R144). -/
def State.touchTables (s : State) (terms : List (Nat × Pt)) : State :=
  terms.foldl (fun s t => s.touchTable Config.wDefault t.2) s

/-! ## The commands -/

/-- `WNAF rd, ra, w` (42_scalarmul.md R133): digit `i` at DBUF offset `i`, the digit count to `r[d]`. -/
def execWnaf (rd ra : RIdx) (w : Byte) (s : State) : Host.Outcome State Fault Refusal :=
  command (.wnaf rd ra w) s do
    let digits := wnaf (s.natR ra) w.toNat
    .ok ((s.memWrite 0 (digits.map tc8)).setNatR rd digits.length)

/-- `GLVSPLIT rd, ra` (R139). -/
def execGlvsplit (rd ra : RIdx) (s : State) : Host.Outcome State Fault Refusal :=
  command (.glvsplit rd ra) s do
    let k ← orderOperand s ra
    let halves := glvsplit k
    .ok (((s.setNatR rd halves.1.natAbs).setNatR (pairHigh rd) halves.2.natAbs).setHalfSigns halves.1 halves.2)

/-- `PENDO ad, aa` (R135). -/
def execPendo (ad aa : AIdx) (s : State) : Host.Outcome State Fault Refusal :=
  command (.pendo ad aa) s do
    let q ← pointOperand s aa
    .ok (s.setA ad (APoint.ofPt q.phi))

/-- `PMUL ad, rk, ab, w` (R143): the window only selects a table. -/
def execPmul (ad : AIdx) (rk : RIdx) (ab : AIdx) (w : Byte) (s : State) : Host.Outcome State Fault Refusal :=
  command (.pmul ad rk ab w) s do
    let q ← pointOperand s ab
    .ok ((s.setA ad (APoint.ofPt (smul (s.natR rk) q))).touchTable w.toNat q)

/-- `PMULADD ad, rk1, ap1, rk2, ap2` (R145). -/
def execPmuladd (ad : AIdx) (rk1 : RIdx) (ap1 : AIdx) (rk2 : RIdx) (ap2 : AIdx) (s : State) :
    Host.Outcome State Fault Refusal :=
  command (.pmuladd ad rk1 ap1 rk2 ap2) s do
    let p1 ← pointOperand s ap1
    let p2 ← pointOperand s ap2
    .ok ((s.setA ad (APoint.ofPt (muladd (s.natR rk1) p1 (s.natR rk2) p2))).touchTables
      (glvTerms (s.natR rk1) p1 ++ glvTerms (s.natR rk2) p2))

end Sys2Proof.Machine
end

