-- ==== Sys2Proof/Machine/Dispatch.lean ====
section
/-! DEFINITION. One arm for each command (30_encoding.md R59): the command's own rule, run by 60_exceptions.md R263 after its
discard test (log entry 7). -/
namespace Sys2Proof.Machine

def exec (i : Instr) (s : State) : Host.Outcome State Fault Refusal :=
  match i with
  | .nop => Sys2Proof.Machine.execNop s
  | .mov rd ra => Sys2Proof.Machine.execMov rd ra s
  | .ldi rd imm => Sys2Proof.Machine.execLdi rd imm s
  | .ldc rd c => Sys2Proof.Machine.execLdc rd c s
  | .ldbe rd off len => Sys2Proof.Machine.execLdbe rd off len s
  | .stbe rs off len => Sys2Proof.Machine.execStbe rs off len s
  | .pset ad rx ry => Sys2Proof.Machine.execPset ad rx ry s
  | .pgetx rd aa => Sys2Proof.Machine.execPgetx rd aa s
  | .pgety rd aa => Sys2Proof.Machine.execPgety rd aa s
  | .pmov ad aa => Sys2Proof.Machine.execPmov ad aa s
  | .pldg ad => Sys2Proof.Machine.execPldg ad s
  | .pinf ad => Sys2Proof.Machine.execPinf ad s
  | .jmov jd ja => Sys2Proof.Machine.execJmov jd ja s
  | .addp rd ra rb => Sys2Proof.Machine.execAddp rd ra rb s
  | .subp rd ra rb => Sys2Proof.Machine.execSubp rd ra rb s
  | .mulp rd ra rb => Sys2Proof.Machine.execMulp rd ra rb s
  | .invp rd ra => Sys2Proof.Machine.execInvp rd ra s
  | .powp rd ra rb => Sys2Proof.Machine.execPowp rd ra rb s
  | .sqrtp rd ra => Sys2Proof.Machine.execSqrtp rd ra s
  | .redp rd ra => Sys2Proof.Machine.execRedp rd ra s
  | .muln rd ra rb => Sys2Proof.Machine.execMuln rd ra rb s
  | .invn rd ra => Sys2Proof.Machine.execInvn rd ra s
  | .redn rd ra => Sys2Proof.Machine.execRedn rd ra s
  | .padd ad aa ab => Sys2Proof.Machine.execPadd ad aa ab s
  | .pdbl ad aa => Sys2Proof.Machine.execPdbl ad aa s
  | .pneg ad aa => Sys2Proof.Machine.execPneg ad aa s
  | .peq aa ab => Sys2Proof.Machine.execPeq aa ab s
  | .pvalid aa => Sys2Proof.Machine.execPvalid aa s
  | .pfromx ad rx odd => Sys2Proof.Machine.execPfromx ad rx odd s
  | .pdec ad off len => Sys2Proof.Machine.execPdec ad off len s
  | .penc aa off len => Sys2Proof.Machine.execPenc aa off len s
  | .jfroma jd aa => Sys2Proof.Machine.execJfroma jd aa s
  | .jtoa ad ja => Sys2Proof.Machine.execJtoa ad ja s
  | .jadd jd ja jb => Sys2Proof.Machine.execJadd jd ja jb s
  | .jdbl jd ja => Sys2Proof.Machine.execJdbl jd ja s
  | .jneg jd ja => Sys2Proof.Machine.execJneg jd ja s
  | .wnaf rd ra w => Sys2Proof.Machine.execWnaf rd ra w s
  | .glvsplit rd ra => Sys2Proof.Machine.execGlvsplit rd ra s
  | .pendo ad aa => Sys2Proof.Machine.execPendo ad aa s
  | .pmul ad rk ab w => Sys2Proof.Machine.execPmul ad rk ab w s
  | .pmuladd ad rk1 ap1 rk2 ap2 => Sys2Proof.Machine.execPmuladd ad rk1 ap1 rk2 ap2 s
  | .truncn rd ra truncOnly => Sys2Proof.Machine.execTruncn rd ra truncOnly s
  | .drbgk rd rmsg rkey iter => Sys2Proof.Machine.execDrbgk rd rmsg rkey iter s
  | .sign rd rmsg rkey lowS src => Sys2Proof.Machine.execSign rd rmsg rkey lowS src s
  | .verify rmsg rr rs aq => Sys2Proof.Machine.execVerify rmsg rr rs aq s
  | .hinit alg => Sys2Proof.Machine.execHinit alg s
  | .hupdate off len => Sys2Proof.Machine.execHupdate off len s
  | .hdigest off => Sys2Proof.Machine.execHdigest off s
  | .hdigestH256 off => Sys2Proof.Machine.execHdigestH256 off s
  | .hdigestH160 off => Sys2Proof.Machine.execHdigestH160 off s
  | .hmacinit alg off len => Sys2Proof.Machine.execHmacinit alg off len s
  | .hmacfinal off => Sys2Proof.Machine.execHmacfinal off s

end Sys2Proof.Machine
end

