-- ==== Sys2Proof/Machine/Issue.lean ====
section
/-! DEFINITION. Command issue, the effect of a host write to `CMD` (60_exceptions.md R263), and the write to `CTRL`
(10_state.md R33). -/
namespace Sys2Proof.Machine

/-- Issue the command word `w` (60_exceptions.md R263): discarded while `ERR = 1`; an illegal word enters the fault
`ERR_ILLEGAL_CMD`; a legal one runs. -/
def issue (w : Word32) (s : State) : Host.Outcome State Fault Refusal :=
  if s.err then .next s
  else
    match decode w with
    | .error _ => .next (faultEntry .illegalCmd w s)
    | .ok i => exec i s

/-- A write to `CTRL` (10_state.md R33): `SRST` wins over `CLRERR`; every other bit is ignored. -/
def writeCtrl (w : Word32) (s : State) : State :=
  if w.getLsbD 1 then resetBlock s
  else if w.getLsbD 0 then clearFault s
  else s

end Sys2Proof.Machine
end

