-- ==== Sys2Proof/Machine/Window.lean ====
section
/-! DEFINITION. The host window (20_memory.md R40, R42 to R45, R47): its map, what a read answers, what a write does, and one
host event. -/
namespace Sys2Proof.Machine

/-- The locations of the window map (20_memory.md R44). -/
inductive Loc where
  | id | cmd | status | flags | errcmd | ctrl
  | r (i : Fin 16) (k : Fin 8)
  | ax (i : Fin 8) (k : Fin 8)
  | ay (i : Fin 8) (k : Fin 8)
  | ainf (i : Fin 8)
  | jx (i : Fin 8) (k : Fin 8)
  | jy (i : Fin 8) (k : Fin 8)
  | jz (i : Fin 8) (k : Fin 8)
  | hctl | hlenLo | hlenHi
  | hLo (i : Fin 8)
  | hHi (i : Fin 8)
  | pend (m : Fin 32)
  | dbuf (m : Fin 128)
deriving DecidableEq, Repr

/-- The byte offset of a location (20_memory.md R44). -/
def Loc.offset : Loc → Nat
  | .id => 0x000 | .cmd => 0x004 | .status => 0x008 | .flags => 0x00C | .errcmd => 0x010 | .ctrl => 0x014
  | .r i k => 0x100 + 32 * i.val + 4 * k.val
  | .ax i k => 0x400 + 128 * i.val + 4 * k.val
  | .ay i k => 0x420 + 128 * i.val + 4 * k.val
  | .ainf i => 0x440 + 128 * i.val
  | .jx i k => 0x800 + 128 * i.val + 4 * k.val
  | .jy i k => 0x820 + 128 * i.val + 4 * k.val
  | .jz i k => 0x840 + 128 * i.val + 4 * k.val
  | .hctl => 0xC00 | .hlenLo => 0xC04 | .hlenHi => 0xC08
  | .hLo i => 0xC40 + 8 * i.val
  | .hHi i => 0xC44 + 8 * i.val
  | .pend m => 0xC80 + 4 * m.val
  | .dbuf m => 0x1000 + 4 * m.val

/-! ## Decoding an offset -/

/-- The six control and status registers, at `0x000` to `0x014`. -/
def locateControl (off : Nat) : Option Loc :=
  match off with
  | 0x000 => some .id | 0x004 => some .cmd | 0x008 => some .status
  | 0x00C => some .flags | 0x010 => some .errcmd | 0x014 => some .ctrl
  | _ => none

/-- Register `i`'s slot of 128 bytes in the affine file, at offset `o` within the slot. -/
def locateAffine (i : Fin 8) (o : Nat) : Option Loc :=
  if o < 0x20 then some (.ax i (Fin.ofNat 8 (o / 4)))
  else if o < 0x40 then some (.ay i (Fin.ofNat 8 (o / 4)))
  else if o = 0x40 then some (.ainf i)
  else none

/-- Register `i`'s slot of 128 bytes in the Jacobian file, at offset `o` within the slot. -/
def locateJacobian (i : Fin 8) (o : Nat) : Option Loc :=
  if o < 0x20 then some (.jx i (Fin.ofNat 8 (o / 4)))
  else if o < 0x40 then some (.jy i (Fin.ofNat 8 (o / 4)))
  else if o < 0x60 then some (.jz i (Fin.ofNat 8 (o / 4)))
  else none

/-- The read-only view of the hash context, at offset `o` from `0xC00`. -/
def locateHash (o : Nat) : Option Loc :=
  if o = 0x00 then some .hctl
  else if o = 0x04 then some .hlenLo
  else if o = 0x08 then some .hlenHi
  else if o < 0x40 then none
  else if o < 0x80 then some (if o % 8 = 0 then .hLo (Fin.ofNat 8 (o / 8)) else .hHi (Fin.ofNat 8 (o / 8)))
  else some (.pend (Fin.ofNat 32 (o / 4)))

/-- The location at a byte offset: none for an unaligned or an unmapped one (20_memory.md R43, R44). -/
def locate (off : Nat) : Option Loc :=
  if off % 4 ≠ 0 then none
  else if off < 0x100 then locateControl off
  else if off < 0x300 then some (.r (Fin.ofNat 16 ((off - 0x100) / 32)) (Fin.ofNat 8 (off / 4)))
  else if off < 0x400 then none
  else if off < 0x800 then locateAffine (Fin.ofNat 8 ((off - 0x400) / 128)) (off % 128)
  else if off < 0xC00 then locateJacobian (Fin.ofNat 8 ((off - 0x800) / 128)) (off % 128)
  else if off < 0xD00 then locateHash (off - 0xC00)
  else if off < 0x1000 then none
  else if off < 0x1200 then some (.dbuf (Fin.ofNat 128 ((off - 0x1000) / 4)))
  else none

/-! ## Reading -/

/-- What a read of a location answers; write-only locations answer 0 (20_memory.md R43, R44). -/
def readLoc (s : State) : Loc → Word32
  | .id => Config.idValue
  | .cmd => 0
  | .status => s.statusWord
  | .flags => s.flagsWord
  | .errcmd => s.errcmd
  | .ctrl => 0
  | .r i k => getWord (s.getR i) k
  | .ax i k => getWord (s.getA i).x k
  | .ay i k => getWord (s.getA i).y k
  | .ainf i => BitVec.ofNat 32 (s.getA i).inf.toNat
  | .jx i k => getWord (s.getJ i).X k
  | .jy i k => getWord (s.getJ i).Y k
  | .jz i k => getWord (s.getJ i).Z k
  | .hctl => s.hctlWord
  | .hlenLo => s.hc.hlen.extractLsb' 0 32
  | .hlenHi => s.hc.hlen.extractLsb' 32 32
  | .hLo i => s.hc.h[i].extractLsb' 0 32
  | .hHi i => s.hc.h[i].extractLsb' 32 32
  | .pend m =>
    let byte := fun b => s.hc.pend.toList.getD (4 * m.val + b) 0
    laneWord (byte 0) (byte 1) (byte 2) (byte 3)
  | .dbuf m =>
    let byte := fun b => s.dbuf.read (4 * m.val + b)
    laneWord (byte 0) (byte 1) (byte 2) (byte 3)

/-- The read's answer goes to the host; the block does not change (20_memory.md R43; log entry 3). -/
def answerRead (w : Word32) (s : State) : State := { s with hostOut := s.hostOut ++ [w] }

/-! ## Writing -/

/-- The four bytes of a window word, in DBUF order (20_memory.md R42). -/
def laneBytes (w : Word32) : List Byte := [laneByte w 0, laneByte w 1, laneByte w 2, laneByte w 3]

/-- A write to a location that holds data; a write to a read-only location changes nothing (20_memory.md R43, R45). `CMD` and
`CTRL` are in `writeLoc`. -/
def writeData (s : State) (w : Word32) : Loc → State
  | .r i k => s.setR i (setWord (s.getR i) k w)
  | .ax i k => s.setA i { s.getA i with x := setWord (s.getA i).x k w }
  | .ay i k => s.setA i { s.getA i with y := setWord (s.getA i).y k w }
  | .ainf i => s.setA i { s.getA i with inf := w.getLsbD 0 }
  | .jx i k => s.setJ i { s.getJ i with X := setWord (s.getJ i).X k w }
  | .jy i k => s.setJ i { s.getJ i with Y := setWord (s.getJ i).Y k w }
  | .jz i k => s.setJ i { s.getJ i with Z := setWord (s.getJ i).Z k w }
  | .dbuf m => s.memWrite (4 * m.val) (laneBytes w)
  | .id | .cmd | .status | .flags | .errcmd | .ctrl | .hctl | .hlenLo | .hlenHi | .hLo _ | .hHi _ | .pend _ => s

/-- A write to a location: only `CMD` and `CTRL` act (20_memory.md R43). -/
def writeLoc (s : State) (w : Word32) (loc : Loc) : Host.Outcome State Fault Refusal :=
  if loc = .cmd then issue w s
  else if loc = .ctrl then .next (writeCtrl w s)
  else .next (writeData s w loc)

/-! ## One host event -/

/-- Serve one event. An access the block answers with a bus error has no meaning in a model (20_memory.md R43). -/
def serve (e : HostEvent) (s : State) : Host.Outcome State Fault Refusal :=
  match e with
  | .read off =>
    match locate off with
    | some loc => .next (answerRead (readLoc s loc) s)
    | none => .refused (.busError off)
  | .write off w =>
    match locate off with
    | some loc => writeLoc s w loc
    | none => .refused (.busError off)
  | .otherWidth off _ => .refused (.busError off)
  | .hardReset => .next (resetBlock s)

end Sys2Proof.Machine
end

