-- ==== Sys2Proof/Machine/Step.lean ====
section
/-! DEFINITION. One step: the next event of the host is served, complete, before the next one (00_scope.md R8, R9,
20_memory.md R43, R50; log entries 1 and 2). -/
namespace Sys2Proof.Machine

/-- The head of the host's queue is served in the state whose queue has lost it. With an empty queue nothing happens: the
engine never acts on its own (00_scope.md R8). -/
def step (s : State) : Host.Outcome State Fault Refusal :=
  match s.hostIn with
  | [] => .next s
  | e :: rest => serve e { s with hostIn := rest }

/-- The state whose next step issues the command word `w` of a table row with `nbits` bits: the host's next event is the
write of that word to `CMD` (20_memory.md R44; log entry 2). -/
def State.withFetchWord (s : State) (nbits w : Nat) : State :=
  { s with hostIn := .write 0x004 (BitVec.ofNat 32 (w % 2 ^ nbits)) :: s.hostIn }

end Sys2Proof.Machine
end

