-- ==== Sys2Proof/Safety.lean ====
section
/-! DEFINITION. What a safe run means, in the terms the statements use: what each command may write (10_state.md R27), which
faults it may raise (60_exceptions.md R261), and the invariant of the machine's state (10_state.md R32, R34, R35, R39,
44_hash.md R193, R196, 20_memory.md R40). -/
namespace Sys2Proof.Machine

/-! ## Destinations (10_state.md R27) -/

/-- The integer registers a command writes; a pair's upper register included (R22). -/
def intDests : Instr → List RIdx
  | .mov rd _ | .ldi rd _ | .ldc rd _ | .ldbe rd _ _ | .pgetx rd _ | .pgety rd _
  | .addp rd _ _ | .subp rd _ _ | .mulp rd _ _ | .invp rd _ | .powp rd _ _ | .sqrtp rd _ | .redp rd _
  | .muln rd _ _ | .invn rd _ | .redn rd _ | .wnaf rd _ _ | .truncn rd _ _ | .drbgk rd _ _ _ => [rd]
  | .glvsplit rd _ | .sign rd _ _ _ _ => [rd, pairHigh rd]
  | .nop | .stbe .. | .pset .. | .pmov .. | .pldg .. | .pinf .. | .jmov ..
  | .padd .. | .pdbl .. | .pneg .. | .peq .. | .pvalid .. | .pfromx .. | .pdec .. | .penc ..
  | .jfroma .. | .jtoa .. | .jadd .. | .jdbl .. | .jneg .. | .pendo .. | .pmul .. | .pmuladd .. | .verify ..
  | .hinit .. | .hupdate .. | .hdigest .. | .hdigestH256 .. | .hdigestH160 .. | .hmacinit .. | .hmacfinal .. => []

/-- The affine registers a command writes. -/
def affineDests : Instr → List AIdx
  | .pset ad _ _ | .pmov ad _ | .pldg ad | .pinf ad | .padd ad _ _ | .pdbl ad _ | .pneg ad _ | .pfromx ad _ _
  | .pdec ad _ _ | .jtoa ad _ | .pendo ad _ | .pmul ad _ _ _ | .pmuladd ad _ _ _ _ => [ad]
  | .nop | .mov .. | .ldi .. | .ldc .. | .ldbe .. | .stbe .. | .pgetx .. | .pgety .. | .jmov ..
  | .addp .. | .subp .. | .mulp .. | .invp .. | .powp .. | .sqrtp .. | .redp .. | .muln .. | .invn .. | .redn ..
  | .peq .. | .pvalid .. | .penc .. | .jfroma .. | .jadd .. | .jdbl .. | .jneg ..
  | .wnaf .. | .glvsplit .. | .truncn .. | .drbgk .. | .sign .. | .verify ..
  | .hinit .. | .hupdate .. | .hdigest .. | .hdigestH256 .. | .hdigestH160 .. | .hmacinit .. | .hmacfinal .. => []

/-- The Jacobian registers a command writes. -/
def jacDests : Instr → List JIdx
  | .jmov jd _ | .jfroma jd _ | .jadd jd _ _ | .jdbl jd _ | .jneg jd _ => [jd]
  | .nop | .mov .. | .ldi .. | .ldc .. | .ldbe .. | .stbe .. | .pset .. | .pgetx .. | .pgety .. | .pmov .. | .pldg ..
  | .pinf .. | .addp .. | .subp .. | .mulp .. | .invp .. | .powp .. | .sqrtp .. | .redp .. | .muln .. | .invn ..
  | .redn .. | .padd .. | .pdbl .. | .pneg .. | .peq .. | .pvalid .. | .pfromx .. | .pdec .. | .penc .. | .jtoa ..
  | .wnaf .. | .glvsplit .. | .pendo .. | .pmul .. | .pmuladd .. | .truncn .. | .drbgk .. | .sign .. | .verify ..
  | .hinit .. | .hupdate .. | .hdigest .. | .hdigestH256 .. | .hdigestH160 .. | .hmacinit .. | .hmacfinal .. => []

/-- The commands that write `FLAGS.T` (10_state.md R31). -/
def writesT : Instr → Bool
  | .sqrtp .. | .peq .. | .pvalid .. | .verify .. => true
  | .nop | .mov .. | .ldi .. | .ldc .. | .ldbe .. | .stbe .. | .pset .. | .pgetx .. | .pgety .. | .pmov .. | .pldg ..
  | .pinf .. | .jmov .. | .addp .. | .subp .. | .mulp .. | .invp .. | .powp .. | .redp .. | .muln .. | .invn ..
  | .redn .. | .padd .. | .pdbl .. | .pneg .. | .pfromx .. | .pdec .. | .penc .. | .jfroma .. | .jtoa .. | .jadd ..
  | .jdbl .. | .jneg .. | .wnaf .. | .glvsplit .. | .pendo .. | .pmul .. | .pmuladd .. | .truncn .. | .drbgk ..
  | .sign .. | .hinit .. | .hupdate .. | .hdigest .. | .hdigestH256 .. | .hdigestH160 .. | .hmacinit ..
  | .hmacfinal .. => false

/-- The command that writes `FLAGS.N1` and `FLAGS.N2` (10_state.md R31). -/
def writesHalfSigns : Instr → Bool
  | .glvsplit .. => true
  | .nop | .mov .. | .ldi .. | .ldc .. | .ldbe .. | .stbe .. | .pset .. | .pgetx .. | .pgety .. | .pmov .. | .pldg ..
  | .pinf .. | .jmov .. | .addp .. | .subp .. | .mulp .. | .invp .. | .powp .. | .sqrtp .. | .redp .. | .muln ..
  | .invn .. | .redn .. | .padd .. | .pdbl .. | .pneg .. | .peq .. | .pvalid .. | .pfromx .. | .pdec .. | .penc ..
  | .jfroma .. | .jtoa .. | .jadd .. | .jdbl .. | .jneg .. | .wnaf .. | .pendo .. | .pmul .. | .pmuladd ..
  | .truncn .. | .drbgk .. | .sign .. | .verify .. | .hinit .. | .hupdate .. | .hdigest .. | .hdigestH256 ..
  | .hdigestH160 .. | .hmacinit .. | .hmacfinal .. => false

/-- The commands that write the hash context or the HMAC key (10_state.md R27). -/
def writesHash : Instr → Bool
  | .hinit .. | .hupdate .. | .hdigest .. | .hdigestH256 .. | .hdigestH160 .. | .hmacinit .. | .hmacfinal .. => true
  | .nop | .mov .. | .ldi .. | .ldc .. | .ldbe .. | .stbe .. | .pset .. | .pgetx .. | .pgety .. | .pmov .. | .pldg ..
  | .pinf .. | .jmov .. | .addp .. | .subp .. | .mulp .. | .invp .. | .powp .. | .sqrtp .. | .redp .. | .muln ..
  | .invn .. | .redn .. | .padd .. | .pdbl .. | .pneg .. | .peq .. | .pvalid .. | .pfromx .. | .pdec .. | .penc ..
  | .jfroma .. | .jtoa .. | .jadd .. | .jdbl .. | .jneg .. | .wnaf .. | .glvsplit .. | .pendo .. | .pmul ..
  | .pmuladd .. | .truncn .. | .drbgk .. | .sign .. | .verify .. => false

/-- The commands that build a table of odd multiples (10_state.md R39). -/
def fillsCache : Instr → Bool
  | .pmul .. | .pmuladd .. => true
  | .nop | .mov .. | .ldi .. | .ldc .. | .ldbe .. | .stbe .. | .pset .. | .pgetx .. | .pgety .. | .pmov .. | .pldg ..
  | .pinf .. | .jmov .. | .addp .. | .subp .. | .mulp .. | .invp .. | .powp .. | .sqrtp .. | .redp .. | .muln ..
  | .invn .. | .redn .. | .padd .. | .pdbl .. | .pneg .. | .peq .. | .pvalid .. | .pfromx .. | .pdec .. | .penc ..
  | .jfroma .. | .jtoa .. | .jadd .. | .jdbl .. | .jneg .. | .wnaf .. | .glvsplit .. | .pendo .. | .truncn ..
  | .drbgk .. | .sign .. | .verify .. | .hinit .. | .hupdate .. | .hdigest .. | .hdigestH256 .. | .hdigestH160 ..
  | .hmacinit .. | .hmacfinal .. => false

/-- Where a command stores to DBUF, and how many bytes (20_memory.md R41); length 0 for a command that stores nothing. -/
def storeRange (i : Instr) (s : State) : Nat × Nat :=
  match i with
  | .stbe _ off len => (off.toNat, len.toNat)
  | .penc _ off len => (off.toNat, len.toNat)
  | .wnaf _ ra w => (0, (wnaf (s.natR ra) w.toNat).length)
  | .hdigest off => (off.toNat, digestLen s.hc.alg)
  | .hdigestH256 off => (off.toNat, 32)
  | .hdigestH160 off => (off.toNat, 20)
  | .hmacfinal off => (off.toNat, digestLen s.hc.alg)
  | .nop | .mov .. | .ldi .. | .ldc .. | .ldbe .. | .pset .. | .pgetx .. | .pgety .. | .pmov .. | .pldg ..
  | .pinf .. | .jmov .. | .addp .. | .subp .. | .mulp .. | .invp .. | .powp .. | .sqrtp .. | .redp .. | .muln ..
  | .invn .. | .redn .. | .padd .. | .pdbl .. | .pneg .. | .peq .. | .pvalid .. | .pfromx .. | .pdec ..
  | .jfroma .. | .jtoa .. | .jadd .. | .jdbl .. | .jneg .. | .glvsplit .. | .pendo .. | .pmul ..
  | .pmuladd .. | .truncn .. | .drbgk .. | .sign .. | .verify .. | .hinit .. | .hupdate .. | .hmacinit .. => (0, 0)

/-! ## Faults -/

/-- The fault codes a legal command may raise: the column "raised by" of 60_exceptions.md R261. -/
def mayRaise : Instr → List ErrCode
  | .nop | .mov .. | .ldi .. | .ldc .. | .pmov .. | .pldg .. | .pinf .. | .jmov .. | .redp .. | .redn .. | .wnaf ..
  | .truncn .. | .hinit .. => []
  | .ldbe .. | .hmacinit .. => [.bufRange]
  | .stbe .. => [.bufRange, .range]
  | .pset .. | .addp .. | .subp .. | .mulp .. | .powp .. | .sqrtp .. | .muln .. | .glvsplit .. | .drbgk ..
  | .jfroma .. | .jtoa .. | .jadd .. | .jdbl .. | .jneg .. => [.range]
  | .invp .. | .invn .. => [.range, .invZero]
  | .pgetx .. | .pgety .. | .pvalid .. => [.infinity]
  | .padd .. | .pdbl .. | .pneg .. | .peq .. | .pfromx .. | .pendo .. | .pmul .. | .pmuladd .. => [.range, .invalidPoint]
  | .pdec .. => [.bufRange, .pointFormat, .range, .invalidPoint]
  | .penc .. => [.bufRange, .infinity, .range]
  | .verify .. => [.infinity, .range, .invalidPoint]
  | .sign _ _ _ _ (.fixed _) => [.range, .kRange, .kInfinity, .kZeroR, .kZeroS]
  | .sign _ _ _ _ .drbg | .sign _ _ _ _ (.table _) => [.range, .nonceExhausted]
  | .hupdate .. => [.bufRange, .hashState, .hashLen]
  | .hdigest .. | .hdigestH256 .. | .hdigestH160 .. | .hmacfinal .. => [.hashState, .bufRange]

/-- The command raises the fault: fault entry, and nothing else (60_exceptions.md R262). -/
abbrev Raises (i : Instr) (s : State) (e : ErrCode) : Prop := exec i s = .next (faultEntry e (encode i) s)

/-- The fault `check_point` raises on a register value, if any (00_scope.md R15). -/
def pointFault (q : APoint) : Option ErrCode :=
  if q.inf then none
  else if q.x.toNat < Config.p ∧ q.y.toNat < Config.p then
    (if onCurve q.x.toNat q.y.toNat then none else some .invalidPoint)
  else some .range

/-- Every coordinate of a Jacobian register is canonical (41_point.md R106). -/
def jacCanonical (q : JPoint) : Bool :=
  decide (q.X.toNat < Config.p) && decide (q.Y.toNat < Config.p) && decide (q.Z.toNat < Config.p)

/-! ## Reset and the window -/

/-- Every piece of state has the reset value of 10_state.md R38. -/
structure ResetValues (t : State) : Prop where
  r : ∀ i, t.getR i = 0
  a : ∀ i, t.getA i = { x := 0, y := 0, inf := false }
  j : ∀ i, t.getJ i = { X := 0, Y := 0, Z := 0 }
  flags : t.flagsWord = 0
  status : t.statusWord = 0
  err : t.err = false
  errcmd : t.errcmd = 0
  active : t.hc.active = false
  hmac : t.hc.hmac = false
  alg : t.hc.alg.code = 0
  h : ∀ i : Fin 8, t.hc.h[i] = 0
  hlen : t.hc.hlen = 0
  npend : t.hc.npend = 0
  pend : ∀ i : Fin 128, t.hc.pend[i] = 0
  hkey : ∀ i : Fin 128, t.hkey[i] = 0
  dbuf : ∀ addr, t.dbuf.read addr = 0
  cache : t.wnafCache = []

/-- The window words that a host write replaces whole (20_memory.md R44); `a[i].inf` takes only bit 0. -/
def wholeWord : Loc → Bool
  | .r .. | .ax .. | .ay .. | .jx .. | .jy .. | .jz .. | .dbuf .. => true
  | .ainf _ | .id | .cmd | .status | .flags | .errcmd | .ctrl | .hctl | .hlenLo | .hlenHi | .hLo _ | .hHi _ | .pend _ =>
    false

/-! ## The invariant -/

/-- The fault record: everything zero without a fault (10_state.md R32), a code of R261 with one. -/
def faultRecordOk (s : State) : Bool :=
  if s.err then decide (1 ≤ s.errcode.toNat) && decide (s.errcode.toNat ≤ 14)
  else decide (s.errcode = 0) && decide (s.errcmd = 0)

/-- The cells of an algorithm that are in use hold words of its width, the others zero (10_state.md R34). -/
def chainOk (hc : HashCtx) : Bool :=
  match hc.alg with
  | .sha512 => true
  | .sha256 => hc.h.toList.all fun x => decide (x.toNat < 2 ^ 32)
  | .rmd160 | .sha1 =>
    (hc.h.toList.take 5).all (fun x => decide (x.toNat < 2 ^ 32)) && (hc.h.toList.drop 5).all fun x => decide (x = 0)

/-- The hash context is in one of its three states (44_hash.md R196): idle with every field zero, or open with its counters
consistent (R193) and its unused parts zero (10_state.md R34). -/
def hashOk (hc : HashCtx) : Bool :=
  if hc.active then
    decide (hc.npend.toNat = hc.hlen.toNat % blockSize hc.alg) && decide (hc.hlen.toNat < 2 ^ 61) && chainOk hc &&
      (hc.pend.toList.drop hc.npend.toNat).all fun b => decide (b = 0)
  else decide (hc = HashCtx.idle)

/-- The HMAC key holds one block of the open HMAC and zero everywhere else (10_state.md R35). -/
def hkeyOk (s : State) : Bool :=
  if s.hc.active && s.hc.hmac then (s.hkey.toList.drop (blockSize s.hc.alg)).all fun b => decide (b = 0)
  else s.hkey.toList.all fun b => decide (b = 0)

/-- One cache entry: a legal window, and exactly the table R141 computes (10_state.md R39). -/
def cacheEntryOk (e : CacheEntry) : Bool :=
  windowOk e.w && decide (e.table = (oddTable e.x.toNat e.y.toNat e.w.toNat).map JPoint.ofJac)

/-- The hidden cache: every entry right, no key twice, the capacity kept (10_state.md R39). -/
def cacheOk (cache : List CacheEntry) : Bool :=
  cache.all cacheEntryOk && decide (cache.map fun e => (e.w, e.x, e.y)).Nodup &&
    decide (cache.length ≤ Config.wnafCacheEntries)

/-- The invariant of the machine's state. -/
structure Inv (s : State) : Prop where
  memory : s.dbuf.wf = true
  faultRecord : faultRecordOk s = true
  hash : hashOk s.hc = true
  hkey : hkeyOk s = true
  cache : cacheOk s.wnafCache = true

end Sys2Proof.Machine
end

