-- ==== Sys2Proof/Certificates/Slice0/Obligations.lean ====
section
/-! DEFINITION. The statements for the provers. Each says in its docstring which rules of spec/ it formalises. -/

open Sys2Proof Sys2Proof.Machine

/-! ## Encoding -/

/-- 30_encoding.md R69: the encoding examples, all twenty. -/
def Obligations.EncodingExamplesDecode : Prop :=
  decode 0x00000000 = .ok .nop ∧
  decode 0x02100003 = .ok (.ldi 1 3) ∧
  decode 0x12312000 = .ok (.mulp 3 1 2) ∧
  decode 0x164E0000 = .ok (.redp 4 14) ∧
  decode 0x33110005 = .ok (.pmul 1 1 0 5) ∧
  decode 0x34210201 = .ok (.pmuladd 2 1 0 2 1) ∧
  decode 0x04504020 = .ok (.ldbe 5 64 32) ∧
  decode 0x26300021 = .ok (.pdec 3 0 33) ∧
  decode 0x51000003 = .ok (.hupdate 0 3) ∧
  decode 0x510101F0 = .ok (.hupdate 16 496) ∧
  decode 0x52204000 = .ok (.hdigestH160 64) ∧
  decode 0x53100014 = .ok (.hmacinit .sha512 0 20) ∧
  decode 0x42412001 = .ok (.sign 4 1 2 true .drbg) ∧
  decode 0x42412303 = .ok (.sign 4 1 2 true (.fixed 3)) ∧
  decode 0x42412014 = .ok (.sign 4 1 2 false (.table 2)) ∧
  decode 0x43214500 = .ok (.verify 1 4 5 2) ∧
  decode 0x17000000 = .error .opcode ∧
  decode 0x01120001 = .error .unusedField ∧
  decode 0x20812000 = .error .pointIndex ∧
  decode 0x16EF0000 = .error .pairIndex

/-- 30_encoding.md R67: every legal word is the one word of its command, with no bit dropped. -/
def Obligations.EncodeInvertsDecode : Prop :=
  ∀ (w : Word32) (i : Instr), decode w = .ok i → i.wellFormed = true ∧ encode i = w

/-- 30_encoding.md R67: the word of every well-formed command decodes to it, with every operand; so no two commands share a
word. -/
def Obligations.DecodeInvertsEncode : Prop :=
  (∀ i : Instr, i.wellFormed = true → decode (encode i) = .ok i) ∧
  ∀ i k : Instr, i.wellFormed = true → k.wellFormed = true → encode i = encode k → i = k

/-! ## A step, command issue and the fault record -/

/-- 00_scope.md R8, 60_exceptions.md R263: the step that serves the write of a command's word to `CMD` is `exec` of that
command, in the state whose event queue has lost that write. The queue is the model's own field (log entries 1 to 3). -/
def Obligations.StepRunsTheDecodedCommand : Prop :=
  (∀ (s : State) (w : Word32) (i : Instr) (rest : List HostEvent), s.hostIn = .write 0x004 w :: rest → s.err = false →
    decode w = .ok i → step s = exec i { s with hostIn := rest }) ∧
  (∀ (s : State) (i : Instr) (rest : List HostEvent), s.hostIn = .write 0x004 (encode i) :: rest → s.err = false →
    i.wellFormed = true → step s = exec i { s with hostIn := rest }) ∧
  ∀ (s : State) (w : Nat), step (s.withFetchWord 32 w) = issue (BitVec.ofNat 32 w) s

/-- 60_exceptions.md R263: the effect of a host write of `w` to `CMD`: discarded while `ERR = 1`, else the decode checks, else
the command's rule, and then either fault entry or the command's writes with the fault record unchanged. Host writes to other
locations are not blocked by `ERR`. -/
def Obligations.CommandIssueFollowsItsRule : Prop :=
  ∀ (s : State) (w : Word32),
    (s.err = true → issue w s = .next s) ∧
    (s.err = false → ∀ r, decode w = .error r → issue w s = .next (faultEntry .illegalCmd w s)) ∧
    (s.err = false → ∀ i, decode w = .ok i → issue w s = exec i s ∧
      ((∃ e, issue w s = .next (faultEntry e w s)) ∨
        ∃ t, issue w s = .next t ∧ t.err = false ∧ t.errcode = s.errcode ∧ t.errcmd = s.errcmd)) ∧
    ∀ loc, loc ≠ .cmd → writeLoc s w loc = .next (if loc = .ctrl then writeCtrl w s else writeData s w loc)

/-- 60_exceptions.md R262: a command that leaves a fault has changed nothing but the fault record, which holds its code and its
word. (That the hidden cache and the host's two lists stay as well is the model's own, log entries 6 and 3.) -/
def Obligations.FaultEntryWritesOnlyTheRecord : Prop :=
  ∀ (i : Instr) (s t : State), s.err = false → exec i s = .next t → t.err = true →
    (∃ e : ErrCode, t.errcode = e.code) ∧ t.errcmd = encode i ∧
    t.r = s.r ∧ t.a = s.a ∧ t.j = s.j ∧ t.flags = s.flags ∧ t.dbuf = s.dbuf ∧ t.hc = s.hc ∧ t.hkey = s.hkey ∧
    t.wnafCache = s.wnafCache ∧ t.hostIn = s.hostIn ∧ t.hostOut = s.hostOut

/-- 00_scope.md R9, 70_reset_and_hazards.md R299: every command ends, either with the fault record as it was and the host's two
lists, the model's own (log entry 3), untouched, or by fault entry. -/
def Obligations.EveryCommandCompletesOrFaults : Prop :=
  ∀ (i : Instr) (s : State), ∃ t, exec i s = .next t ∧
    ((t.err = s.err ∧ t.errcode = s.errcode ∧ t.errcmd = s.errcmd ∧ t.hostIn = s.hostIn ∧ t.hostOut = s.hostOut) ∨
      ∃ e, t = faultEntry e (encode i) s)

/-- 60_exceptions.md R261: the numbers of the codes, and a legal command raises only the codes its rows list. An ill-formed
command, which no word decodes to, raises `ERR_ILLEGAL_CMD` (the model's choice, log entry 8). -/
def Obligations.RaisedFaultsAreTheListedOnes : Prop :=
  (∀ (i : Instr) (s : State) (e : ErrCode), i.wellFormed = true → s.err = false → Raises i s e → e ∈ mayRaise i) ∧
  (∀ (i : Instr) (s : State), i.wellFormed = false → Raises i s .illegalCmd) ∧
  [ErrCode.illegalCmd, .bufRange, .range, .invZero, .infinity, .invalidPoint, .pointFormat, .kRange, .kInfinity, .kZeroR,
    .kZeroS, .nonceExhausted, .hashState, .hashLen].map ErrCode.code = [1, 2, 3, 4, 5, 6, 7, 8, 9, 10, 11, 12, 13, 14]

/-- 60_exceptions.md R265, 10_state.md R33: a write to `CTRL` with `CLRERR` set clears the fault record and nothing else, whether
there is a fault or not; a write with neither bit set changes nothing; with `SRST` set the record is cleared together with
everything else. That the step serves the head of the list of host events, which loses the write, and that the list of answers
stays, is the model's choice, log entries 1 and 3. -/
def Obligations.ClearErrClearsOnlyTheRecord : Prop :=
  ∀ (s : State) (w : Word32) (rest : List HostEvent), s.hostIn = .write 0x014 w :: rest →
    (w.getLsbD 1 = false → step s = .next (if w.getLsbD 0 then { s with hostIn := rest, err := false, errcode := 0, errcmd := 0 }
      else { s with hostIn := rest })) ∧
    (w.getLsbD 1 = true → ∃ t, step s = .next t ∧ t.err = false ∧ t.errcode = 0 ∧ t.errcmd = 0)

/-- 10_state.md R38: after hardware reset, after a write of 1 to `CTRL.SRST` (whatever its other bits), and in the state right
after reset, every piece of state has the value of the table. (The list of host events by which the two resets arrive is the
model's own, log entries 1 and 3.) -/
def Obligations.ResetGivesTheResetValues : Prop :=
  (∀ (s : State) (rest : List HostEvent), s.hostIn = .hardReset :: rest → ∃ t, step s = .next t ∧ ResetValues t) ∧
  (∀ (s : State) (w : Word32) (rest : List HostEvent), s.hostIn = .write 0x014 w :: rest → w.getLsbD 1 = true →
    ∃ t, step s = .next t ∧ ResetValues t) ∧
  ResetValues State.reset

/-! ## The host window -/

/-- 20_memory.md R44: the decoder of offsets and the map are inverse to each other: every location is at its own offset, and
nothing else is mapped. -/
def Obligations.WindowMapIsExact : Prop :=
  (∀ loc : Loc, locate loc.offset = some loc) ∧ ∀ (off : Nat) (loc : Loc), locate off = some loc → loc.offset = off

/-- 20_memory.md R43, R44, R47, 10_state.md R33: a read of a mapped location has no side effect and its answer goes to the host;
`ID` reads its constant and the write-only locations read 0. An access at an unaligned or unmapped offset, above the window, or
of another width is a bus error, which has no meaning in the model and is refused by name (log entry 4). The list `hostOut` that
takes the answer is the model's own (log entry 3). -/
def Obligations.ReadsAndBusErrors : Prop :=
  (∀ (s : State) (loc : Loc) (rest : List HostEvent), s.hostIn = .read loc.offset :: rest →
    step s = .next { s with hostIn := rest, hostOut := s.hostOut ++ [readLoc s loc] }) ∧
  (∀ s : State, readLoc s .id = 0x53554201 ∧ readLoc s .cmd = 0 ∧ readLoc s .ctrl = 0) ∧
  (∀ (s : State) (off : Nat) (w : Word32) (rest : List HostEvent), locate off = none →
    (s.hostIn = .read off :: rest → step s = .refused (.busError off)) ∧
    (s.hostIn = .write off w :: rest → step s = .refused (.busError off))) ∧
  (∀ (s : State) (off bytes : Nat) (rest : List HostEvent), s.hostIn = .otherWidth off bytes :: rest →
    step s = .refused (.busError off)) ∧
  ∀ off : Nat,
    (off % 4 ≠ 0 ∨ (0x018 ≤ off ∧ off < 0x100) ∨ (0x300 ≤ off ∧ off < 0x400) ∨
      (0x400 ≤ off ∧ off < 0x800 ∧ 0x44 ≤ off % 128) ∨ (0x800 ≤ off ∧ off < 0xC00 ∧ 0x60 ≤ off % 128) ∨
      (0xC0C ≤ off ∧ off < 0xC40) ∨ (0xD00 ≤ off ∧ off < 0x1000) ∨ 0x1200 ≤ off) → locate off = none

/-- 20_memory.md R43, R44, R48, R50: a step that serves a host write to a location is the write of that location, for a location
other than `CMD` and `CTRL` the write of its data; a location holds the last value written to it by the host, a write touches no
other location, and a write to a read-only location changes nothing. `a[i].inf` takes bit 0. (The queue that loses the write is
the model's own, log entry 3.) -/
def Obligations.WindowWordsReadBack : Prop :=
  (∀ (s : State) (w : Word32) (loc : Loc) (rest : List HostEvent), s.hostIn = .write loc.offset w :: rest →
    step s = writeLoc { s with hostIn := rest } w loc ∧
    (loc ≠ .cmd → loc ≠ .ctrl → step s = .next (writeData { s with hostIn := rest } w loc))) ∧
  ∀ (s : State) (w : Word32) (loc : Loc), s.dbuf.wf = true →
    (wholeWord loc = true → readLoc (writeData s w loc) loc = w) ∧
    (∀ i, loc = .ainf i → readLoc (writeData s w loc) loc = w &&& 1) ∧
    (wholeWord loc = false → (∀ i, loc ≠ .ainf i) → writeData s w loc = s) ∧
    ∀ other, other ≠ loc → readLoc (writeData s w loc) other = readLoc s other

/-- 20_memory.md R45: a write of word `k` of a 256-bit field replaces bits `32k+31 : 32k` and leaves the other 224 bits
unchanged; a write of a DBUF word replaces the four bytes `DBUF[4m .. 4m+3]`. -/
def Obligations.WordWriteKeepsTheOtherBits : Prop :=
  (∀ (v : Word) (k : Fin 8) (x : Word32) (b : Nat), b < 256 →
    (setWord v k x).getLsbD b = if 32 * k.val ≤ b ∧ b < 32 * k.val + 32 then x.getLsbD (b - 32 * k.val) else v.getLsbD b) ∧
  (∀ (s : State) (x : Word32) (k : Fin 8),
    (∀ i, writeData s x (.r i k) = s.setR i (setWord (s.getR i) k x)) ∧
    (∀ i, writeData s x (.ax i k) = s.setA i { s.getA i with x := setWord (s.getA i).x k x }) ∧
    (∀ i, writeData s x (.ay i k) = s.setA i { s.getA i with y := setWord (s.getA i).y k x }) ∧
    (∀ i, writeData s x (.jx i k) = s.setJ i { s.getJ i with X := setWord (s.getJ i).X k x }) ∧
    (∀ i, writeData s x (.jy i k) = s.setJ i { s.getJ i with Y := setWord (s.getJ i).Y k x }) ∧
    ∀ i, writeData s x (.jz i k) = s.setJ i { s.getJ i with Z := setWord (s.getJ i).Z k x }) ∧
  ∀ (s : State) (x : Word32) (m : Fin 128), s.dbuf.wf = true →
    (∀ b : Fin 4, (writeData s x (.dbuf m)).dbuf.read (4 * m.val + b.val) = x.extractLsb' (8 * b.val) 8) ∧
    ∀ addr, addr < 4 * m.val ∨ 4 * m.val + 4 ≤ addr → (writeData s x (.dbuf m)).dbuf.read addr = s.dbuf.read addr

/-- 10_state.md R31, R32, 20_memory.md R42, R44: what the host reads: the bits of `FLAGS`, `STATUS` and `HCTL`, every reserved bit
as zero; the read-only views of the hash context, `HLEN_LO`, `HLEN_HI`, `H[i]` low and high and the bytes of `PEND`; word `k` of
every register field, `a[i].inf`, and the bytes of `DBUF`. -/
def Obligations.StatusRegistersReadTheirBits : Prop :=
  ∀ s : State,
    (readLoc s .flags).getLsbD 0 = s.flags.t ∧ (readLoc s .flags).getLsbD 1 = s.flags.n1 ∧
    (readLoc s .flags).getLsbD 2 = s.flags.n2 ∧ (readLoc s .flags).extractLsb' 3 29 = 0 ∧
    (readLoc s .status).getLsbD 0 = s.err ∧ (readLoc s .status).extractLsb' 1 7 = 0 ∧
    (readLoc s .status).extractLsb' 8 8 = s.errcode ∧ (readLoc s .status).getLsbD 16 = s.hc.active ∧
    (readLoc s .status).getLsbD 17 = s.hc.hmac ∧ ((readLoc s .status).extractLsb' 18 2).toNat = s.hc.alg.code ∧
    (readLoc s .status).extractLsb' 20 12 = 0 ∧ readLoc s .errcmd = s.errcmd ∧
    (readLoc s .hctl).getLsbD 0 = s.hc.active ∧ (readLoc s .hctl).getLsbD 1 = s.hc.hmac ∧
    ((readLoc s .hctl).extractLsb' 2 2).toNat = s.hc.alg.code ∧ (readLoc s .hctl).extractLsb' 4 4 = 0 ∧
    (readLoc s .hctl).extractLsb' 8 7 = s.hc.npend ∧ (readLoc s .hctl).extractLsb' 15 17 = 0 ∧
    readLoc s .hlenLo = s.hc.hlen.extractLsb' 0 32 ∧ readLoc s .hlenHi = s.hc.hlen.extractLsb' 32 32 ∧
    (∀ i : Fin 8, readLoc s (.hLo i) = s.hc.h[i].extractLsb' 0 32 ∧ readLoc s (.hHi i) = s.hc.h[i].extractLsb' 32 32) ∧
    (∀ (m : Fin 32) (b : Fin 4), (readLoc s (.pend m)).extractLsb' (8 * b.val) 8 = s.hc.pend[4 * m.val + b.val]) ∧
    (∀ (m : Fin 128) (b : Fin 4), (readLoc s (.dbuf m)).extractLsb' (8 * b.val) 8 = s.dbuf.read (4 * m.val + b.val)) ∧
    (∀ i, readLoc s (.ainf i) = if (s.getA i).inf then 1 else 0) ∧
    ∀ (k : Fin 8) (b : Nat), b < 32 →
      (∀ i, (readLoc s (.r i k)).getLsbD b = (s.getR i).getLsbD (32 * k.val + b)) ∧
      ∀ i, (readLoc s (.ax i k)).getLsbD b = (s.getA i).x.getLsbD (32 * k.val + b) ∧
        (readLoc s (.ay i k)).getLsbD b = (s.getA i).y.getLsbD (32 * k.val + b) ∧
        (readLoc s (.jx i k)).getLsbD b = (s.getJ i).X.getLsbD (32 * k.val + b) ∧
        (readLoc s (.jy i k)).getLsbD b = (s.getJ i).Y.getLsbD (32 * k.val + b) ∧
        (readLoc s (.jz i k)).getLsbD b = (s.getJ i).Z.getLsbD (32 * k.val + b)

/-! ## Frames: what each of the 52 commands leaves unchanged (10_state.md R27) -/

/-- FRAME of the integer registers, over all commands: only the destination changes; for `GLVSPLIT` and `SIGN` the destination
is a pair (10_state.md R22, R27). -/
def Obligations.FrameIntegerRegisters : Prop :=
  ∀ (i : Instr) (s t : State), exec i s = .next t → ∀ k, k ∉ intDests i → t.getR k = s.getR k

/-- FRAME of the affine and the Jacobian registers, over all commands (10_state.md R23 to R25, R27). -/
def Obligations.FramePointRegisters : Prop :=
  ∀ (i : Instr) (s t : State), exec i s = .next t →
    (∀ k, k ∉ affineDests i → t.getA k = s.getA k) ∧ ∀ k, k ∉ jacDests i → t.getJ k = s.getJ k

/-- FRAME of the flags, over all commands: `T` changes only in `SQRTP PEQ PVALID VERIFY`, `N1` and `N2` only in `GLVSPLIT`
(10_state.md R27, R31). -/
def Obligations.FrameFlags : Prop :=
  ∀ (i : Instr) (s t : State), exec i s = .next t →
    (writesT i = false → t.flags.t = s.flags.t) ∧
    (writesHalfSigns i = false → t.flags.n1 = s.flags.n1 ∧ t.flags.n2 = s.flags.n2)

/-- FRAME of DBUF, over all commands: every byte outside the bytes the command stores to reads as before; a command that stores
nothing has the empty range, so every byte reads as before (20_memory.md R41, 10_state.md R27). -/
def Obligations.FrameDataBuffer : Prop :=
  ∀ (i : Instr) (s t : State), exec i s = .next t →
    ∀ addr, addr < (storeRange i s).1 ∨ (storeRange i s).1 + (storeRange i s).2 ≤ addr → t.dbuf.read addr = s.dbuf.read addr

/-- FRAME of the hash context, the HMAC key and the hidden cache, over all commands: `SIGN`, `DRBGK` and `VERIFY` leave an open
hash computation alone (43_ecdsa.md R173, 10_state.md R27). The clause about the hidden cache is the model's choice, log entry 6:
only `PMUL` and `PMULADD` fill it; the spec calls its contents any value. -/
def Obligations.FrameHashContextAndCache : Prop :=
  ∀ (i : Instr) (s t : State), exec i s = .next t →
    (writesHash i = false → t.hc = s.hc ∧ t.hkey = s.hkey) ∧ (fillsCache i = false → t.wnafCache = s.wnafCache)

/-! ## The invariant -/

/-- The state after reset meets the invariant. -/
def Obligations.ResetMeetsTheInvariant : Prop := Inv State.reset

/-- THE INVARIANT IS KEPT BY EVERY STEP, from every state that meets it: DBUF keeps its canonical form (20_memory.md R40, log
entry 9), the fault record is zero without a fault and holds a code of R261 with one (10_state.md R32), the hash context is in
one of its three states with consistent counters and zero unused parts (10_state.md R34, 44_hash.md R193, R196), the HMAC key
is zero outside an open HMAC (10_state.md R35). The clause about the hidden cache is the model's choice, log entry 6: the cache of
the model holds exactly the tables R141 computes, no key twice, within the opaque capacity, as 10_state.md R39 asks of a block
that has one. -/
def Obligations.StepKeepsTheInvariant : Prop :=
  ∀ s t : State, Inv s → step s = .next t → Inv t

/-! ## Moves -/

/-- 46_move.md R241 to R243, R246, R250 to R253: the moves that raise no fault complete in every state. -/
def Obligations.PlainMovesComplete : Prop :=
  ∀ s : State,
    exec .nop s = .next s ∧
    (∀ rd ra, exec (.mov rd ra) s = .next { s with r := s.r.set rd s.r[ra] }) ∧
    (∀ rd imm, exec (.ldi rd imm) s = .next { s with r := s.r.set rd (imm.setWidth 256) }) ∧
    (∀ rd, exec (.ldc rd .p) s =
      .next (s.setR rd 0xFFFFFFFFFFFFFFFFFFFFFFFFFFFFFFFFFFFFFFFFFFFFFFFFFFFFFFFEFFFFFC2F)) ∧
    (∀ rd, exec (.ldc rd .n) s =
      .next (s.setR rd 0xFFFFFFFFFFFFFFFFFFFFFFFFFFFFFFFEBAAEDCE6AF48A03BBFD25E8CD0364141)) ∧
    (∀ rd, exec (.ldc rd .gx) s =
      .next (s.setR rd 0x79BE667EF9DCBBAC55A06295CE870B07029BFCDB2DCE28D959F2815B16F81798)) ∧
    (∀ rd, exec (.ldc rd .gy) s =
      .next (s.setR rd 0x483ADA7726A3C4655DA4FBFC0E1108A8FD17B448A68554199C47D08FFB10D4B8)) ∧
    (∀ rd, exec (.ldc rd .beta) s =
      .next (s.setR rd 0x7AE96A2B657C07106E64479EAC3434E99CF0497512F58995C1396C28719501EE)) ∧
    (∀ rd, exec (.ldc rd .lambda) s =
      .next (s.setR rd 0x5363AD4CC05C30E0A5261C028812645A122E22EA20816678DF02967C1B23BD72)) ∧
    (∀ rd, exec (.ldc rd .sqrtExp) s =
      .next (s.setR rd 0x3FFFFFFFFFFFFFFFFFFFFFFFFFFFFFFFFFFFFFFFFFFFFFFFFFFFFFFFBFFFFF0C)) ∧
    (∀ rd, exec (.ldc rd .halfN) s =
      .next (s.setR rd 0x7FFFFFFFFFFFFFFFFFFFFFFFFFFFFFFF5D576E7357A4501DDFE92F46681B20A0)) ∧
    (∀ ad aa, exec (.pmov ad aa) s = .next { s with a := s.a.set ad s.a[aa] }) ∧
    (∀ ad, exec (.pldg ad) s = .next (s.setA ad
      { x := 0x79BE667EF9DCBBAC55A06295CE870B07029BFCDB2DCE28D959F2815B16F81798
        y := 0x483ADA7726A3C4655DA4FBFC0E1108A8FD17B448A68554199C47D08FFB10D4B8
        inf := false })) ∧
    (∀ ad, exec (.pinf ad) s = .next (s.setA ad { x := 0, y := 0, inf := true })) ∧
    ∀ jd ja, exec (.jmov jd ja) s = .next { s with j := s.j.set jd s.j[ja] }

/-- 46_move.md R244, R245: `LDBE` loads the big-endian value of `len` bytes, `STBE` stores exactly `len` big-endian bytes; the
buffer range is tested before the value's range. -/
def Obligations.IntegerLoadAndStore : Prop :=
  ∀ (s : State) (rd : RIdx) (off : Off) (len : Byte), len.toNat ≤ 32 →
    (off.toNat + len.toNat ≤ 512 → exec (.ldbe rd off len) s = .next (s.setNatR rd
      (∑ k ∈ Finset.range len.toNat, (s.dbuf.read (off.toNat + k)).toNat * 256 ^ (len.toNat - 1 - k)))) ∧
    (512 < off.toNat + len.toNat → Raises (.ldbe rd off len) s .bufRange ∧ Raises (.stbe rd off len) s .bufRange) ∧
    (off.toNat + len.toNat ≤ 512 → 256 ^ len.toNat ≤ s.natR rd → Raises (.stbe rd off len) s .range) ∧
    (off.toNat + len.toNat ≤ 512 → s.natR rd < 256 ^ len.toNat → s.dbuf.wf = true →
      ∃ m, exec (.stbe rd off len) s = .next { s with dbuf := m } ∧
        (∀ k, k < len.toNat → (m.read (off.toNat + k)).toNat = s.natR rd / 256 ^ (len.toNat - 1 - k) % 256) ∧
        ∀ addr, addr < off.toNat ∨ off.toNat + len.toNat ≤ addr → m.read addr = s.dbuf.read addr)

/-- 46_move.md R247 to R249: `PSET` stores canonical coordinates without a curve test, `PGETX` and `PGETY` read a coordinate of
a finite register, whatever it is. -/
def Obligations.CoordinateMoves : Prop :=
  ∀ s : State,
    (∀ ad rx ry, s.natR rx < Config.p → s.natR ry < Config.p →
      exec (.pset ad rx ry) s = .next (s.setA ad { x := s.getR rx, y := s.getR ry, inf := false })) ∧
    (∀ ad rx ry, Config.p ≤ s.natR rx ∨ Config.p ≤ s.natR ry → Raises (.pset ad rx ry) s .range) ∧
    (∀ rd aa, (s.getA aa).inf = false →
      exec (.pgetx rd aa) s = .next (s.setR rd (s.getA aa).x) ∧ exec (.pgety rd aa) s = .next (s.setR rd (s.getA aa).y)) ∧
    ∀ rd aa, (s.getA aa).inf = true → Raises (.pgetx rd aa) s .infinity ∧ Raises (.pgety rd aa) s .infinity

/-! ## Field and order arithmetic -/

/-- 40_field.md R71, R74, R75: field addition and subtraction of canonical operands; a non-canonical one faults. -/
def Obligations.FieldAddAndSubtract : Prop :=
  ∀ (s : State) (rd ra rb : RIdx),
    (s.natR ra < Config.p → s.natR rb < Config.p →
      exec (.addp rd ra rb) s = .next (s.setNatR rd
        (if Config.p ≤ s.natR ra + s.natR rb then s.natR ra + s.natR rb - Config.p else s.natR ra + s.natR rb)) ∧
      exec (.subp rd ra rb) s = .next (s.setNatR rd
        (if s.natR ra < s.natR rb then s.natR ra + Config.p - s.natR rb else s.natR ra - s.natR rb))) ∧
    (Config.p ≤ s.natR ra ∨ Config.p ≤ s.natR rb → Raises (.addp rd ra rb) s .range ∧ Raises (.subp rd ra rb) s .range)

/-- 40_field.md R72: the field-p reducer, its two folds with their bounds, its one conditional subtraction, the value it
computes and the worked case. -/
def Obligations.ReducerComputesTheResidue : Prop :=
  (∀ x : Nat, x < 2 ^ 512 →
    foldP x % Config.p = x % Config.p ∧ foldP x < 2 ^ 289 ∧
    foldP (foldP x) % Config.p = x % Config.p ∧ foldP (foldP x) < 2 ^ 256 + 2 ^ 66 ∧
    redp x = (if Config.p ≤ foldP (foldP x) then foldP (foldP x) - Config.p else foldP (foldP x)) ∧
    redp x = x % Config.p) ∧
  foldP (2 ^ 512 - 1) = 0x1000003D1FFFFFFFFFFFFFFFFFFFFFFFFFFFFFFFFFFFFFFFFFFFFFFFFFFFFFFFEFFFFFC2E ∧
  foldP (foldP (2 ^ 512 - 1)) = 0x1000000000000000000000000000000000000000000000001000007A1000E8CCF ∧
  redp (2 ^ 512 - 1) = 0x000000000000000000000000000000000000000000000001000007A2000E90A0

/-- 40_field.md R76, R80, R81, R83: products and reductions modulo `p` and `n`; the pair commands accept every 512-bit value. -/
def Obligations.MultiplyAndReduce : Prop :=
  ∀ (s : State) (rd ra rb : RIdx),
    (s.natR ra < Config.p → s.natR rb < Config.p →
      exec (.mulp rd ra rb) s = .next (s.setNatR rd (s.natR ra * s.natR rb % Config.p))) ∧
    (Config.p ≤ s.natR ra ∨ Config.p ≤ s.natR rb → Raises (.mulp rd ra rb) s .range) ∧
    (s.natR ra < Config.n → s.natR rb < Config.n →
      exec (.muln rd ra rb) s = .next (s.setNatR rd (s.natR ra * s.natR rb % Config.n))) ∧
    (Config.n ≤ s.natR ra ∨ Config.n ≤ s.natR rb → Raises (.muln rd ra rb) s .range) ∧
    (ra.val ≤ 14 →
      exec (.redp rd ra) s =
        .next (s.setNatR rd ((s.natR ra + 2 ^ 256 * s.natR (Fin.ofNat 16 (ra.val + 1))) % Config.p)) ∧
      exec (.redn rd ra) s =
        .next (s.setNatR rd ((s.natR ra + 2 ^ 256 * s.natR (Fin.ofNat 16 (ra.val + 1))) % Config.n)))

/-- 40_field.md R73: `p` and `n` are prime, and the inverse is the unique `y` in `[1, m-1]` with `x * y ≡ 1 (mod m)`. -/
def Obligations.InverseIsTheUniqueInverse : Prop :=
  Nat.Prime Config.p ∧ Nat.Prime Config.n ∧
  ∀ m x : Nat, m = Config.p ∨ m = Config.n → 1 ≤ x → x ≤ m - 1 →
    1 ≤ invMod m x ∧ invMod m x ≤ m - 1 ∧ x * invMod m x % m = 1 ∧
    ∀ y, 1 ≤ y → y ≤ m - 1 → x * y % m = 1 → y = invMod m x

/-- 40_field.md R77, R82: the inverse commands; the range test comes before the zero test. -/
def Obligations.InverseCommands : Prop :=
  ∀ (s : State) (rd ra : RIdx),
    (1 ≤ s.natR ra → s.natR ra < Config.p →
      ∃ y, exec (.invp rd ra) s = .next (s.setNatR rd y) ∧ 1 ≤ y ∧ y < Config.p ∧ s.natR ra * y % Config.p = 1) ∧
    (Config.p ≤ s.natR ra → Raises (.invp rd ra) s .range) ∧
    (1 ≤ s.natR ra → s.natR ra < Config.n →
      ∃ y, exec (.invn rd ra) s = .next (s.setNatR rd y) ∧ 1 ≤ y ∧ y < Config.n ∧ s.natR ra * y % Config.n = 1) ∧
    (Config.n ≤ s.natR ra → Raises (.invn rd ra) s .range) ∧
    (s.natR ra = 0 → Raises (.invp rd ra) s .invZero ∧ Raises (.invn rd ra) s .invZero)

/-- 40_field.md R78: square and multiply gives the power, for every exponent, `0^0 = 1` included. -/
def Obligations.PowerCommand : Prop :=
  ∀ (s : State) (rd ra rb : RIdx),
    (s.natR ra < Config.p → exec (.powp rd ra rb) s = .next (s.setNatR rd (s.natR ra ^ s.natR rb % Config.p))) ∧
    (Config.p ≤ s.natR ra → Raises (.powp rd ra rb) s .range)

/-- 40_field.md R79: `SQRTP` decides whether there is a root: with one it writes `x^((p+1)/4) mod p`, a root, and `T = 1`;
without one only `T = 0`. -/
def Obligations.SquareRootCommand : Prop :=
  ∀ (s : State) (rd ra : RIdx),
    (s.natR ra < Config.p → (∃ y, y < Config.p ∧ y * y % Config.p = s.natR ra) →
      exec (.sqrtp rd ra) s = .next ((s.setNatR rd (s.natR ra ^ ((Config.p + 1) / 4) % Config.p)).setT true) ∧
      (s.natR ra ^ ((Config.p + 1) / 4) % Config.p) ^ 2 % Config.p = s.natR ra) ∧
    (s.natR ra < Config.p → (¬∃ y, y < Config.p ∧ y * y % Config.p = s.natR ra) →
      exec (.sqrtp rd ra) s = .next (s.setT false)) ∧
    (Config.p ≤ s.natR ra → Raises (.sqrtp rd ra) s .range)

/-! ## Points -/

/-- 41_point.md R97 to R99, 42_scalarmul.md R135, R143, R145: on well-formed operands the group commands complete with the
group law's result; `PMUL` for every legal window. `PMUL` and `PMULADD` may also change the hidden cache (10_state.md R39, log
entry 6). -/
def Obligations.GroupCommandsComplete : Prop :=
  ∀ (s : State) (ad aa ab : AIdx), (s.getA aa).toPt.wf = true → (s.getA ab).toPt.wf = true →
    exec (.padd ad aa ab) s = .next (s.setA ad (APoint.ofPt ((s.getA aa).toPt.add (s.getA ab).toPt))) ∧
    exec (.pdbl ad aa) s = .next (s.setA ad (APoint.ofPt ((s.getA aa).toPt.add (s.getA aa).toPt))) ∧
    exec (.pneg ad aa) s = .next (s.setA ad (APoint.ofPt (s.getA aa).toPt.neg)) ∧
    exec (.pendo ad aa) s = .next (s.setA ad (APoint.ofPt (s.getA aa).toPt.phi)) ∧
    (∀ rk (w : Byte), 2 ≤ w.toNat → w.toNat ≤ 8 → ∃ cache, exec (.pmul ad rk aa w) s =
      .next { s.setA ad (APoint.ofPt (smul (s.natR rk) (s.getA aa).toPt)) with wnafCache := cache }) ∧
    ∀ rk1 rk2, ∃ cache, exec (.pmuladd ad rk1 aa rk2 ab) s =
      .next { s.setA ad (APoint.ofPt ((smul (s.natR rk1) (s.getA aa).toPt).add (smul (s.natR rk2) (s.getA ab).toPt)))
        with wnafCache := cache }

/-- 00_scope.md R15, 41_point.md R90, 60_exceptions.md R264: `check_point` on every source point in operand order, `ERR_RANGE`
before `ERR_INVALID_POINT` of the same point, the first operand completely before the second; a point is checked also when its
scalar is zero. -/
def Obligations.GroupCommandsCheckTheirPoints : Prop :=
  ∀ (s : State) (ad aa ab : AIdx) (e : ErrCode),
    (pointFault (s.getA aa) = some e →
      Raises (.padd ad aa ab) s e ∧ Raises (.pdbl ad aa) s e ∧ Raises (.pneg ad aa) s e ∧ Raises (.peq aa ab) s e ∧
      Raises (.pendo ad aa) s e ∧ (∀ rk (w : Byte), 2 ≤ w.toNat → w.toNat ≤ 8 → Raises (.pmul ad rk aa w) s e) ∧
      ∀ rk1 rk2, Raises (.pmuladd ad rk1 aa rk2 ab) s e) ∧
    (pointFault (s.getA aa) = none → pointFault (s.getA ab) = some e →
      Raises (.padd ad aa ab) s e ∧ Raises (.peq aa ab) s e ∧ ∀ rk1 rk2, Raises (.pmuladd ad rk1 aa rk2 ab) s e)

/-- 41_point.md R100, R101: `PEQ` compares well-formed points, two infinities being equal whatever their coordinates hold;
`PVALID` is the curve equation on canonical coordinates and faults on infinity. -/
def Obligations.PointPredicates : Prop :=
  ∀ (s : State) (aa ab : AIdx),
    ((s.getA aa).toPt.wf = true → (s.getA ab).toPt.wf = true →
      exec (.peq aa ab) s = .next (s.setT (
        if (s.getA aa).inf || (s.getA ab).inf then (s.getA aa).inf && (s.getA ab).inf
        else decide ((s.getA aa).x = (s.getA ab).x ∧ (s.getA aa).y = (s.getA ab).y)))) ∧
    ((s.getA aa).inf = false →
      exec (.pvalid aa) s = .next (s.setT (decide ((s.getA aa).x.toNat < Config.p ∧ (s.getA aa).y.toNat < Config.p ∧
        (s.getA aa).y.toNat ^ 2 % Config.p = ((s.getA aa).x.toNat ^ 3 + 7) % Config.p)))) ∧
    ((s.getA aa).inf = true → Raises (.pvalid aa) s .infinity)

/-- 41_point.md R102: `PFROMX` gives the point with the asked parity when `x^3 + 7` has a root, and faults when it has none. -/
def Obligations.PointFromX : Prop :=
  ∀ (s : State) (ad : AIdx) (rx : RIdx) (odd : Bool),
    (s.natR rx < Config.p → ∀ y, y < Config.p → y * y % Config.p = (s.natR rx ^ 3 + 7) % Config.p → y % 2 = odd.toNat →
      exec (.pfromx ad rx odd) s = .next (s.setA ad { x := s.getR rx, y := BitVec.ofNat 256 y, inf := false })) ∧
    (s.natR rx < Config.p → (¬∃ y, y < Config.p ∧ y * y % Config.p = (s.natR rx ^ 3 + 7) % Config.p) →
      Raises (.pfromx ad rx odd) s .invalidPoint) ∧
    (Config.p ≤ s.natR rx → Raises (.pfromx ad rx odd) s .range)

/-- 41_point.md R103, R110: SEC1 decoding. `B` is the byte string, `x` and `y` its big-endian halves: the buffer range first,
then the format, then the coordinates' range; the compressed forms give the point `PFROMX` gives, with its faults; the 65-byte
forms are not tested against the curve. -/
def Obligations.PointDecode : Prop :=
  ∀ (s : State) (ad : AIdx) (off : Off) (len : Byte),
    (512 < off.toNat + len.toNat → Raises (.pdec ad off len) s .bufRange) ∧
    (off.toNat + len.toNat ≤ 512 →
      let B := s.memRead off.toNat len.toNat
      let x := be ((B.drop 1).take 32)
      let y := be ((B.drop 33).take 32)
      let pf := (B.getD 0 0).toNat
      let compressed := (pf = 2 ∨ pf = 3) ∧ len.toNat = 33
      let full := len.toNat = 65 ∧ (pf = 4 ∨ (pf = 6 ∧ (B.getD 64 0).toNat % 2 = 0) ∨ (pf = 7 ∧ (B.getD 64 0).toNat % 2 = 1))
      (¬compressed → ¬full → Raises (.pdec ad off len) s .pointFormat) ∧
      (full → (Config.p ≤ x ∨ Config.p ≤ y) → Raises (.pdec ad off len) s .range) ∧
      (full → x < Config.p → y < Config.p → exec (.pdec ad off len) s =
        .next (s.setA ad { x := BitVec.ofNat 256 x, y := BitVec.ofNat 256 y, inf := false })) ∧
      (compressed → Config.p ≤ x → Raises (.pdec ad off len) s .range) ∧
      (compressed → x < Config.p → (¬∃ y, y < Config.p ∧ y * y % Config.p = (x ^ 3 + 7) % Config.p) →
        Raises (.pdec ad off len) s .invalidPoint) ∧
      (compressed → x < Config.p → ∀ y, y < Config.p → y * y % Config.p = (x ^ 3 + 7) % Config.p → y % 2 = pf % 2 →
        exec (.pdec ad off len) s =
          .next (s.setA ad { x := BitVec.ofNat 256 x, y := BitVec.ofNat 256 y, inf := false })))

/-- 41_point.md R104: SEC1 encoding: the prefix, then the coordinates big-endian; buffer range, then infinity, then coordinate
range; the curve equation is not tested. -/
def Obligations.PointEncode : Prop :=
  ∀ (s : State) (aa : AIdx) (off : Off) (len : Byte), len.toNat = 33 ∨ len.toNat = 65 →
    let q := s.getA aa
    (512 < off.toNat + len.toNat → Raises (.penc aa off len) s .bufRange) ∧
    (off.toNat + len.toNat ≤ 512 → q.inf = true → Raises (.penc aa off len) s .infinity) ∧
    (off.toNat + len.toNat ≤ 512 → q.inf = false → (Config.p ≤ q.x.toNat ∨ Config.p ≤ q.y.toNat) →
      Raises (.penc aa off len) s .range) ∧
    (off.toNat + len.toNat ≤ 512 → q.inf = false → q.x.toNat < Config.p → q.y.toNat < Config.p → s.dbuf.wf = true →
      ∃ m, exec (.penc aa off len) s = .next { s with dbuf := m } ∧
        (m.read off.toNat).toNat = (if len.toNat = 33 then 2 + q.y.toNat % 2 else 4) ∧
        be (m.readBytes (off.toNat + 1) 32) = q.x.toNat ∧
        (len.toNat = 65 → be (m.readBytes (off.toNat + 33) 32) = q.y.toNat) ∧
        ∀ addr, addr < off.toNat ∨ off.toNat + len.toNat ≤ addr → m.read addr = s.dbuf.read addr)

/-- 41_point.md R103, R104, R111: a finite curve point encoded by `PENC`, in either form, is decoded to itself by `PDEC`. -/
def Obligations.EncodedPointsDecodeToThemselves : Prop :=
  ∀ (s : State) (ad aa : AIdx) (off : Off) (len : Byte), s.dbuf.wf = true → len.toNat = 33 ∨ len.toNat = 65 →
    off.toNat + len.toNat ≤ 512 → (s.getA aa).inf = false → (s.getA aa).toPt.wf = true →
    ∃ t u, exec (.penc aa off len) s = .next t ∧ exec (.pdec ad off len) t = .next u ∧ u.getA ad = s.getA aa

/-- 41_point.md R92 to R95, R105 to R109: the Jacobian commands complete on canonical coordinates, with the exact triples of the
formulas, and fault on any coordinate that is not canonical, also when `Z = 0`; there is no curve test. -/
def Obligations.JacobianCommands : Prop :=
  ∀ (s : State) (ad aa : AIdx) (jd ja jb : JIdx),
    ((s.getA aa).inf = true → exec (.jfroma jd aa) s = .next (s.setJ jd { X := 0, Y := 1, Z := 0 })) ∧
    ((s.getA aa).inf = false → (s.getA aa).x.toNat < Config.p → (s.getA aa).y.toNat < Config.p →
      exec (.jfroma jd aa) s = .next (s.setJ jd { X := (s.getA aa).x, Y := (s.getA aa).y, Z := 1 })) ∧
    ((s.getA aa).inf = false → (Config.p ≤ (s.getA aa).x.toNat ∨ Config.p ≤ (s.getA aa).y.toNat) →
      Raises (.jfroma jd aa) s .range) ∧
    (jacCanonical (s.getJ ja) = true →
      exec (.jtoa ad ja) s = .next (s.setA ad (APoint.ofPt (s.getJ ja).toJac.toAffine)) ∧
      exec (.jdbl jd ja) s = .next (s.setJ jd (JPoint.ofJac (s.getJ ja).toJac.dbl)) ∧
      exec (.jneg jd ja) s = .next (s.setJ jd (
        if (s.getJ ja).Z = 0 then { X := 0, Y := 1, Z := 0 }
        else { s.getJ ja with Y := BitVec.ofNat 256 ((Config.p - (s.getJ ja).Y.toNat) % Config.p) }))) ∧
    (jacCanonical (s.getJ ja) = false →
      Raises (.jtoa ad ja) s .range ∧ Raises (.jdbl jd ja) s .range ∧ Raises (.jneg jd ja) s .range) ∧
    (jacCanonical (s.getJ ja) = true → jacCanonical (s.getJ jb) = true →
      exec (.jadd jd ja jb) s = .next (s.setJ jd (JPoint.ofJac ((s.getJ ja).toJac.add (s.getJ jb).toJac)))) ∧
    (jacCanonical (s.getJ ja) = false ∨ jacCanonical (s.getJ jb) = false → Raises (.jadd jd ja jb) s .range)

/-- 41_point.md R96: the Jacobian formulas agree with the affine group law, on the triples of affine points and on any canonical
triples that represent curve points. -/
def Obligations.JacobianAgreesWithAffine : Prop :=
  (∀ q1 q2 : Pt, q1.wf = true → q2.wf = true →
    ((Jac.ofAffine q1).add (Jac.ofAffine q2)).toAffine = q1.add q2 ∧
    (Jac.ofAffine q1).dbl.toAffine = q1.dbl ∧ (Jac.ofAffine q1).neg.toAffine = q1.neg) ∧
  ∀ (j1 j2 : Jac) (q1 q2 : Pt), q1.wf = true → q2.wf = true →
    (j1.X < Config.p ∧ j1.Y < Config.p ∧ j1.Z < Config.p) → (j2.X < Config.p ∧ j2.Y < Config.p ∧ j2.Z < Config.p) →
    j1.toAffine = q1 → j2.toAffine = q2 → (j1.add j2).toAffine = q1.add q2 ∧ j1.dbl.toAffine = q1.dbl

/-- 41_point.md R91, 42_scalarmul.md R134: the curve points with infinity are an abelian group under `add`, and `phi` maps
curve points to curve points. (The order of the group, also in R91, is not claimed
here.) -/
def Obligations.CurvePointsFormAnAbelianGroup : Prop :=
  ∀ q1 q2 q3 : Pt, q1.wf = true → q2.wf = true → q3.wf = true →
    (q1.add q2).wf = true ∧ q1.neg.wf = true ∧ q1.phi.wf = true ∧
    q1.add .inf = q1 ∧ Pt.inf.add q1 = q1 ∧ q1.add q1.neg = .inf ∧
    q1.add q2 = q2.add q1 ∧ (q1.add q2).add q3 = q1.add (q2.add q3)

/-- 00_scope.md R14, 41_point.md R91, 42_scalarmul.md R134: the model's double-and-add is the `k`-fold sum on every curve point;
`[n]G` is infinity, and `phi` is the multiple by `lambda` on every multiple of the generator. -/
def Obligations.ScalarMultipleIsRepeatedAddition : Prop :=
  (∀ q : Pt, q.wf = true → smul 0 q = .inf ∧ ∀ k : Nat, smul (k + 1) q = (smul k q).add q) ∧
  smul Config.n Pt.gen = .inf ∧ ∀ k : Nat, (smul k Pt.gen).phi = smul Config.lambda (smul k Pt.gen)

/-- 42_scalarmul.md R142, R144 (with R131, R137, R141): the reference procedures compute what they stand for. Windowed
multiplication, from the table of odd multiples and the signed digits from the most significant one, gives `[k]Q` for every
window; the interleaved multiply-add over the four half-length terms of the GLV split gives `[k1]P1 + [k2]P2`, for all scalars and
all well-formed points, infinity and equal points included. -/
def Obligations.WindowedMultiplicationIsTheMultiple : Prop :=
  (∀ (k w : Nat) (q : Pt), q.wf = true → 2 ≤ w → w ≤ 8 → smulWnaf k q w = smul k q) ∧
  ∀ (k1 k2 : Nat) (q1 q2 : Pt), q1.wf = true → q2.wf = true →
    muladdRef k1 q1 k2 q2 = (smul k1 q1).add (smul k2 q2)

/-! ## Recoding -/

/-- 42_scalarmul.md R132: the properties (a) to (e) of the recoder, and that every digit fits a signed byte. -/
def Obligations.RecoderProperties : Prop :=
  (∀ k w : Nat, 2 ≤ w → w ≤ 8 →
    (wnaf k w).foldr (fun (d acc : Int) => d + 2 * acc) 0 = (k : Int) ∧
    (∀ d ∈ wnaf k w, (d = 0 ∨ d % 2 = 1) ∧ |d| ≤ 2 ^ (w - 1) - 1 ∧ |d| ≤ 127) ∧
    (∀ i j, (wnaf k w).getD i 0 ≠ 0 → i < j → j < i + w → (wnaf k w).getD j 0 = 0) ∧
    (wnaf k w = [] ↔ k = 0) ∧ (∀ d, (wnaf k w).getLast? = some d → 0 < d) ∧
    (wnaf k w).length ≤ bitlen k + 1 ∧ (k < 2 ^ 256 → (wnaf k w).length ≤ 257)) ∧
  ∀ w : Nat, 2 ≤ w → w ≤ 8 → wnaf (2 ^ 256 - 1) w = -1 :: (List.replicate 255 0 ++ [1])

/-- 42_scalarmul.md R133: `WNAF` completes for every scalar and legal window: the digit count to the register, digit `i` as a
two's-complement byte at offset `i`, no byte beyond. -/
def Obligations.RecoderCommandWritesTheDigits : Prop :=
  ∀ (s : State) (rd ra : RIdx) (w : Byte), s.dbuf.wf = true → 2 ≤ w.toNat → w.toNat ≤ 8 →
    ∃ t, exec (.wnaf rd ra w) s = .next t ∧
      t.natR rd = (wnaf (s.natR ra) w.toNat).length ∧
      (∀ k, k < (wnaf (s.natR ra) w.toNat).length →
        (t.dbuf.read k).toInt = (wnaf (s.natR ra) w.toNat).getD k 0) ∧
      (∀ k, (wnaf (s.natR ra) w.toNat).length ≤ k → t.dbuf.read k = s.dbuf.read k) ∧
      t.err = s.err ∧ ∀ k, k ≠ rd → t.getR k = s.getR k

/-- 42_scalarmul.md R138 (a, its congruence) and (b), R139: the half scalars recompose to `k`, are below `2^128`, and go to the
destination pair with their signs in `N1` and `N2`; `T` keeps its value; a scalar at or above `n` faults. -/
def Obligations.SplitterHalvesTheScalar : Prop :=
  (∀ k : Nat, k < Config.n →
    ((glvsplit k).1 + (glvsplit k).2 * Config.lambda - k) % (Config.n : Int) = 0 ∧
    (glvsplit k).1.natAbs < 2 ^ 128 ∧ (glvsplit k).2.natAbs < 2 ^ 128) ∧
  ∀ (s : State) (rd ra : RIdx), rd.val ≤ 14 →
    (s.natR ra < Config.n → ∃ t, exec (.glvsplit rd ra) s = .next t ∧
      t.natR rd = (glvsplit (s.natR ra)).1.natAbs ∧ t.natR (Fin.ofNat 16 (rd.val + 1)) = (glvsplit (s.natR ra)).2.natAbs ∧
      t.flags = { s.flags with n1 := decide ((glvsplit (s.natR ra)).1 < 0), n2 := decide ((glvsplit (s.natR ra)).2 < 0) } ∧
      t.err = s.err) ∧
    (Config.n ≤ s.natR ra → Raises (.glvsplit rd ra) s .range)

/-- 42_scalarmul.md R146: cache transparency, for every command: in a state that differs only in the hidden cache the outcome
differs only in the hidden cache. -/
def Obligations.HiddenCacheIsTransparent : Prop :=
  ∀ (i : Instr) (s : State) (cache : List CacheEntry), ∃ t cache',
    exec i s = .next t ∧ exec i { s with wnafCache := cache } = .next { t with wnafCache := cache' }

/-! ## ECDSA -/

/-- 43_ecdsa.md R170, R171: truncation to the order: values of at most 256 bits are not shifted, longer ones lose whole bytes at
the bottom until 256 bits remain; then, unless `truncOnly`, one subtraction of `n` reduces. -/
def Obligations.TruncationToTheOrder : Prop :=
  (∀ v : Nat, v < 2 ^ 256 → truncateToN v true = v ∧ truncateToN v false = v % Config.n) ∧
  (∀ v j : Nat, 256 + 8 * j < bitlen v → bitlen v ≤ 264 + 8 * j →
    truncateToN v true = v / 2 ^ (8 * (j + 1)) ∧ truncateToN v false = v / 2 ^ (8 * (j + 1)) % Config.n) ∧
  ∀ (s : State) (rd ra : RIdx) (truncOnly : Bool), ra.val ≤ 14 →
    exec (.truncn rd ra truncOnly) s = .next (s.setNatR rd
      (truncateToN (s.natR ra + 2 ^ 256 * s.natR (Fin.ofNat 16 (ra.val + 1))) truncOnly))

/-- 43_ecdsa.md R174: `DRBGK` writes the candidate of iteration `iter`, unfiltered; a key outside `[1, n-1]` faults. The
message enters only through its residue, so `msg` and `msg + n` give the same candidates. -/
def Obligations.NonceCandidateCommand : Prop :=
  ∀ (s : State) (rd rmsg rkey : RIdx) (iter : Byte),
    (1 ≤ s.natR rkey → s.natR rkey < Config.n →
      ∃ t, exec (.drbgk rd rmsg rkey iter) s = .next t ∧
        t.natR rd = drbgCandidate (drbgInit (s.natR rkey) (s.natR rmsg % Config.n)) iter.toNat ∧
        t = { s with r := t.r } ∧ ∀ k, k ≠ rd → t.getR k = s.getR k) ∧
    (s.natR rkey = 0 ∨ Config.n ≤ s.natR rkey → Raises (.drbgk rd rmsg rkey iter) s .range)

/-- 43_ecdsa.md R175 to R177: `SIGN` with a fixed nonce, step by step: the key's range, the nonce's range, `r`, `s` and the
low-S replacement; each rejection is its own fault. `kinv` is the
inverse of the nonce modulo `n`. (No nonce with `r = 0` is known: `n` is an x coordinate of a curve point whose logarithm nobody
knows; the clause says what rule R176 says of it.) -/
def Obligations.SignWithAFixedNonce : Prop :=
  ∀ (s : State) (rd rmsg rkey rc : RIdx) (lowS : Bool), rd.val ≤ 14 →
    let i : Instr := .sign rd rmsg rkey lowS (.fixed rc)
    let key := s.natR rkey
    let k := s.natR rc
    (key = 0 ∨ Config.n ≤ key → Raises i s .range) ∧
    (1 ≤ key → key < Config.n → (k ≤ 1 ∨ Config.n - 1 ≤ k) → Raises i s .kRange) ∧
    (1 ≤ key → key < Config.n → 2 ≤ k → k < Config.n - 1 → ∀ x y kinv,
      smul k Pt.gen = .fin x y → kinv < Config.n → k * kinv % Config.n = 1 →
      let r := x % Config.n
      let sv := kinv * ((r * key + s.natR rmsg) % Config.n) % Config.n
      (r = 0 → Raises i s .kZeroR) ∧
      (r ≠ 0 → sv = 0 → Raises i s .kZeroS) ∧
      (r ≠ 0 → sv ≠ 0 → exec i s = .next ((s.setNatR rd r).setNatR (Fin.ofNat 16 (rd.val + 1))
        (if lowS = true ∧ Config.halfN < sv then Config.n - sv else sv))))

/-- 43_ecdsa.md R174 to R177: the key's range and the search of `SIGN`. A key of zero or at or above `n` faults, whatever the
nonce source. The first candidate that passes the checks of R176 signs; the candidates are those `DRBGK` gives, or the table's
big-endian entries; when all are rejected the command faults. `tryNonce` is R176's check of one candidate. -/
def Obligations.SignSearchesItsCandidates : Prop :=
  ∀ (s : State) (rd rmsg rkey : RIdx) (lowS : Bool) (src : NonceSrc), rd.val ≤ 14 → nonceSrcOk src = true →
    (s.natR rkey = 0 ∨ Config.n ≤ s.natR rkey → Raises (.sign rd rmsg rkey lowS src) s .range) ∧
    ∀ (limit : Nat) (candidate : Nat → Nat), 1 ≤ s.natR rkey → s.natR rkey < Config.n →
      ((src = .drbg ∧ limit = Config.signMaxIter ∧
          candidate = drbgCandidate (drbgInit (s.natR rkey) (s.natR rmsg % Config.n))) ∨
        ∃ cnt, src = .table cnt ∧ limit = cnt.toNat ∧ candidate = fun j => be (s.memRead (32 * j) 32)) →
      let tried := fun j => tryNonce (s.natR rkey) (s.natR rmsg % Config.n) lowS (candidate j)
      (∀ j sig, j < limit → (∀ l, l < j → ∃ e, tried l = .error e) → tried j = .ok sig →
        exec (.sign rd rmsg rkey lowS src) s =
          .next ((s.setNatR rd sig.1).setNatR (Fin.ofNat 16 (rd.val + 1)) sig.2)) ∧
      ((∀ l, l < limit → ∃ e, tried l = .error e) → Raises (.sign rd rmsg rkey lowS src) s .nonceExhausted)

/-- 43_ecdsa.md R160, R180: a signature is a pair in `[1, n-1]`, low when asked for, whatever the nonce source. -/
def Obligations.SignaturesAreInRange : Prop :=
  ∀ (s t : State) (rd rmsg rkey : RIdx) (lowS : Bool) (src : NonceSrc), s.err = false →
    exec (.sign rd rmsg rkey lowS src) s = .next t → t.err = false →
    1 ≤ t.natR rd ∧ t.natR rd < Config.n ∧ 1 ≤ t.natR (pairHigh rd) ∧ t.natR (pairHigh rd) < Config.n ∧
    (lowS = true → t.natR (pairHigh rd) ≤ Config.halfN)

/-- 43_ecdsa.md R180: SIGN THEN VERIFY. A signature that `SIGN` made, with any nonce source and either `lowS`, is accepted by
`VERIFY` under the public key `[d]G`. The message register is not overwritten by the signature. -/
def Obligations.SignedMessagesVerify : Prop :=
  ∀ (s t : State) (rd rmsg rkey : RIdx) (lowS : Bool) (src : NonceSrc) (aq : AIdx), s.err = false →
    exec (.sign rd rmsg rkey lowS src) s = .next t → t.err = false → rmsg ≠ rd → rmsg ≠ pairHigh rd →
    (s.getA aq).toPt = smul (s.natR rkey) Pt.gen →
    exec (.verify rmsg rd (pairHigh rd) aq) t = .next (t.setT true)

/-- 43_ecdsa.md R178, R179: `VERIFY`: the public key's faults in order, then the verdict of R178, which is no fault. `w` is the
inverse of `s` modulo `n`. -/
def Obligations.VerifyCommand : Prop :=
  ∀ (s : State) (rmsg rr rs : RIdx) (aq : AIdx),
    let i : Instr := .verify rmsg rr rs aq
    let r := s.natR rr
    let sv := s.natR rs
    ((s.getA aq).inf = true → Raises i s .infinity) ∧
    ((s.getA aq).inf = false → ∀ e, pointFault (s.getA aq) = some e → Raises i s e) ∧
    ((s.getA aq).inf = false → (s.getA aq).toPt.wf = true → (r = 0 ∨ Config.n ≤ r ∨ sv = 0 ∨ Config.n ≤ sv) →
      exec i s = .next (s.setT false)) ∧
    ((s.getA aq).inf = false → (s.getA aq).toPt.wf = true → 1 ≤ r → r < Config.n → 1 ≤ sv → sv < Config.n →
      ∀ w, w < Config.n → sv * w % Config.n = 1 →
      ∃ accept, exec i s = .next (s.setT accept) ∧
        (accept = true ↔ ∃ x y, x % Config.n = r ∧
          (smul (s.natR rmsg * w % Config.n) Pt.gen).add (smul (r * w % Config.n) (s.getA aq).toPt) = .fin x y))

/-! ## Hash and HMAC -/

/-- 44_hash.md R204: every hash command in every context state, the other commands, and the two `CTRL` actions. The state test of
the digest commands comes before their buffer range (R198 to R203), so their wrong-state faults hold at every offset; `HUPDATE`
tests its range first (R197). Where a command completes its DBUF range fits and the length stays below `2^61`. -/
def Obligations.HashContextStateTable : Prop :=
  ∀ s : State,
    (∀ alg, ∃ t, exec (.hinit alg) s = .next t ∧ t.hc.active = true ∧ t.hc.hmac = false ∧ t.hc.alg = alg ∧
      t.hkey = pad128 []) ∧
    (∀ alg (off : Off) (len : Byte), off.toNat + len.toNat ≤ 512 → ∃ t, exec (.hmacinit alg off len) s = .next t ∧
      t.hc.active = true ∧ t.hc.hmac = true ∧ t.hc.alg = alg) ∧
    (∀ off len : BitVec 12, off.toNat + len.toNat ≤ 512 →
      (s.hc.active = false → Raises (.hupdate off len) s .hashState) ∧
      (s.hc.active = true → s.hc.hlen.toNat + len.toNat < 2 ^ 61 → ∃ t, exec (.hupdate off len) s = .next t ∧
        t.hc.active = true ∧ t.hc.hmac = s.hc.hmac ∧ t.hc.alg = s.hc.alg ∧ t.hkey = s.hkey)) ∧
    (∀ off : Off,
      (s.hc.active = false ∨ s.hc.hmac = true → Raises (.hdigest off) s .hashState) ∧
      (s.hc.active = false ∨ s.hc.hmac = true ∨ s.hc.alg ≠ .sha256 →
        Raises (.hdigestH256 off) s .hashState ∧ Raises (.hdigestH160 off) s .hashState) ∧
      (s.hc.active = false ∨ s.hc.hmac = false → Raises (.hmacfinal off) s .hashState) ∧
      (off.toNat + digestLen s.hc.alg ≤ 512 → s.hc.active = true → s.hc.hmac = false →
        ∃ t, exec (.hdigest off) s = .next t ∧ t.hc = HashCtx.idle) ∧
      (off.toNat + digestLen s.hc.alg ≤ 512 → s.hc.active = true → s.hc.hmac = true →
        ∃ t, exec (.hmacfinal off) s = .next t ∧ t.hc = HashCtx.idle) ∧
      (off.toNat + 32 ≤ 512 → s.hc.active = true → s.hc.hmac = false → s.hc.alg = .sha256 →
        ∃ t, exec (.hdigestH256 off) s = .next t ∧ t.hc = HashCtx.idle) ∧
      (off.toNat + 20 ≤ 512 → s.hc.active = true → s.hc.hmac = false → s.hc.alg = .sha256 →
        ∃ t, exec (.hdigestH160 off) s = .next t ∧ t.hc = HashCtx.idle)) ∧
    (∀ i t, writesHash i = false → exec i s = .next t → t.hc = s.hc ∧ t.hkey = s.hkey) ∧
    (∀ w : Word32, w.getLsbD 1 = true → (writeCtrl w s).hc = HashCtx.idle) ∧
    ∀ w : Word32, w.getLsbD 1 = false → (writeCtrl w s).hc = s.hc ∧ (writeCtrl w s).hkey = s.hkey

/-- 44_hash.md R191, R192, R195 to R203: the sizes of the four algorithms; the padding, `0x80`, then zero bytes, then the bit
length big-endian (RIPEMD-160: little-endian), which fills the last block and has between `lenf + 1` and `bs + lenf` bytes; what
the hash commands write when they complete: the fresh context, the absorbed context, and the digest bytes in DBUF with context and
key destroyed; and their buffer-range and length faults, in the order of the rules. -/
def Obligations.HashCommandsComplete : Prop :=
  [HashAlg.sha256, .sha512, .rmd160, .sha1].map blockSize = [64, 128, 64, 64] ∧
  [HashAlg.sha256, .sha512, .rmd160, .sha1].map digestLen = [32, 64, 20, 20] ∧
  [HashAlg.sha256, .sha512, .rmd160, .sha1].map lenField = [8, 16, 8, 8] ∧
  (∀ (alg : HashAlg) (total : Nat), total < 2 ^ 61 →
    (total + (pad alg total).length) % blockSize alg = 0 ∧
    lenField alg + 1 ≤ (pad alg total).length ∧ (pad alg total).length ≤ blockSize alg + lenField alg ∧
    ∃ (k : Nat) (len : List Byte), k < blockSize alg ∧ pad alg total = 0x80 :: (List.replicate k 0 ++ len) ∧
      len.length = lenField alg ∧ (if alg = .rmd160 then le len else be len) = 8 * total) ∧
  ∀ s : State, s.dbuf.wf = true →
    (∀ alg, exec (.hinit alg) s = .next (s.setHash (freshCtx alg false) (Vector.replicate 128 0))) ∧
    (∀ off len : BitVec 12,
      (512 < off.toNat + len.toNat → Raises (.hupdate off len) s .bufRange) ∧
      (off.toNat + len.toNat ≤ 512 → s.hc.active = true → 2 ^ 61 ≤ s.hc.hlen.toNat + len.toNat →
        Raises (.hupdate off len) s .hashLen) ∧
      (off.toNat + len.toNat ≤ 512 → s.hc.active = true → s.hc.hlen.toNat + len.toNat < 2 ^ 61 →
        exec (.hupdate off len) s = .next (s.setHash (absorbBytes s.hc (s.memRead off.toNat len.toNat)) s.hkey))) ∧
    (∀ off : Off, s.hc.active = true → s.hc.hmac = false →
      (512 < off.toNat + digestLen s.hc.alg → Raises (.hdigest off) s .bufRange) ∧
      (off.toNat + digestLen s.hc.alg ≤ 512 → ∃ t, exec (.hdigest off) s = .next t ∧
        t.memRead off.toNat (digestLen s.hc.alg) = finalize s.hc ∧ t.hc = HashCtx.idle ∧ t.hkey = Vector.replicate 128 0)) ∧
    (∀ off : Off, s.hc.active = true → s.hc.hmac = false → s.hc.alg = .sha256 →
      (512 < off.toNat + 32 → Raises (.hdigestH256 off) s .bufRange) ∧
      (512 < off.toNat + 20 → Raises (.hdigestH160 off) s .bufRange) ∧
      (off.toNat + 32 ≤ 512 → ∃ t, exec (.hdigestH256 off) s = .next t ∧
        t.memRead off.toNat 32 = hash .sha256 (finalize s.hc) ∧ t.hc = HashCtx.idle ∧ t.hkey = Vector.replicate 128 0) ∧
      (off.toNat + 20 ≤ 512 → ∃ t, exec (.hdigestH160 off) s = .next t ∧
        t.memRead off.toNat 20 = hash .rmd160 (finalize s.hc) ∧ t.hc = HashCtx.idle ∧ t.hkey = Vector.replicate 128 0)) ∧
    (∀ alg (off : Off) (len : Byte),
      (512 < off.toNat + len.toNat → Raises (.hmacinit alg off len) s .bufRange) ∧
      (off.toNat + len.toNat ≤ 512 → ∃ t, exec (.hmacinit alg off len) s = .next t ∧
        t.hc = absorbBytes (freshCtx alg true) (xorBytes 0x36 (blockKey alg (s.memRead off.toNat len.toNat))) ∧
        t.hc.hlen.toNat = blockSize alg ∧ t.hc.npend = 0 ∧
        t.hkey.toList.take (blockSize alg) = blockKey alg (s.memRead off.toNat len.toNat))) ∧
    ∀ off : Off, s.hc.active = true → s.hc.hmac = true →
      (512 < off.toNat + digestLen s.hc.alg → Raises (.hmacfinal off) s .bufRange) ∧
      (off.toNat + digestLen s.hc.alg ≤ 512 → ∃ t, exec (.hmacfinal off) s = .next t ∧
        t.memRead off.toNat (digestLen s.hc.alg) =
          hash s.hc.alg (xorBytes 0x5C (s.hkey.toList.take (blockSize s.hc.alg)) ++ finalize s.hc) ∧
        t.hc = HashCtx.idle ∧ t.hkey = Vector.replicate 128 0)

/-- 44_hash.md R193: splitting a message into two `absorb` calls gives the same context, and the same length fault, as one
call. -/
def Obligations.AbsorbSplitsAnywhere : Prop :=
  ∀ (hc : HashCtx) (a b : List Byte), hc.active = true → hashOk hc = true →
    (absorb hc a >>= fun h => absorb h b) = absorb hc (a ++ b)

/-- 44_hash.md R205: the four command programs compute the hash, the two composites and the HMAC of the message in DBUF. -/
def Obligations.HashProgramsComputeTheirFunctions : Prop :=
  ∀ (s : State) (len : BitVec 12) (off : Off), s.dbuf.wf = true → len.toNat ≤ 512 →
    (∀ alg, off.toNat + digestLen alg ≤ 512 → ∃ s1 s2 s3, exec (.hinit alg) s = .next s1 ∧
      exec (.hupdate 0 len) s1 = .next s2 ∧ exec (.hdigest off) s2 = .next s3 ∧
      s3.memRead off.toNat (digestLen alg) = hash alg (s.memRead 0 len.toNat)) ∧
    (off.toNat + 32 ≤ 512 → ∃ s1 s2 s3, exec (.hinit .sha256) s = .next s1 ∧
      exec (.hupdate 0 len) s1 = .next s2 ∧ exec (.hdigestH256 off) s2 = .next s3 ∧
      s3.memRead off.toNat 32 = hash .sha256 (hash .sha256 (s.memRead 0 len.toNat))) ∧
    (off.toNat + 20 ≤ 512 → ∃ s1 s2 s3, exec (.hinit .sha256) s = .next s1 ∧
      exec (.hupdate 0 len) s1 = .next s2 ∧ exec (.hdigestH160 off) s2 = .next s3 ∧
      s3.memRead off.toNat 20 = hash .rmd160 (hash .sha256 (s.memRead 0 len.toNat))) ∧
    ∀ alg (koff : Off) (klen : Byte), koff.toNat + klen.toNat ≤ 512 → off.toNat + digestLen alg ≤ 512 →
      ∃ s1 s2 s3, exec (.hmacinit alg koff klen) s = .next s1 ∧
        exec (.hupdate 0 len) s1 = .next s2 ∧ exec (.hmacfinal off) s2 = .next s3 ∧
        s3.memRead off.toNat (digestLen alg) = hmac alg (s.memRead koff.toNat klen.toNat) (s.memRead 0 len.toNat)

/-- 44_hash.md R206 with 45_hash_cores.md R222, R224, R226, R228: the two digests the document prints and the two standard
ones. -/
def Obligations.PublishedDigests : Prop :=
  be (hash .sha256 [0x61, 0x62, 0x63]) = 0xba7816bf8f01cfea414140de5dae2223b00361a396177a9cb410ff61f20015ad ∧
  be (hash .sha1 []) = 0xda39a3ee5e6b4b0d3255bfef95601890afd80709 ∧
  be (hash .rmd160 [0x61, 0x62, 0x63]) = 0x8eb208f7e05d987a9b044a8e98c6b087f15a0bfc ∧
  be (hash .sha512 [0x61, 0x62, 0x63]) =
    0xddaf35a193617abacc417349ae20413112e6fa4e89a97ea20a9eeee64b55d39a2192992a274fc1a836ba3c23a3feebbd454d4423643ce80e2a9ac94fa54ca49f
end

