-- ==== Sys2Proof/Laws/Memory.lean ====
section
/-! SUPPORT. DBUF: every operation keeps the canonical form, and a byte reads as the last one written (20_memory.md R48). -/
namespace Sys2Proof.Machine

/-! ## The canonical form is kept -/

theorem Memory.wfFrom_cons {lo x : Nat} {v : Byte} {rest : Memory} :
    Memory.wfFrom lo ((x, v) :: rest) = true ↔
      lo ≤ x ∧ x < Config.dbufBytes ∧ v ≠ Memory.unlisted ∧ Memory.wfFrom (x + 1) rest = true := by
  simp [Memory.wfFrom, and_assoc]

theorem Memory.wfFrom_le {m : Memory} {lo lo' : Nat} (h : lo ≤ lo') (hw : Memory.wfFrom lo' m = true) :
    Memory.wfFrom lo m = true := by
  cases m with
  | nil => rfl
  | cons c rest =>
    rw [Memory.wfFrom_cons] at hw ⊢
    exact ⟨h.trans hw.1, hw.2⟩

theorem Memory.write_wfFrom {m : Memory} {lo addr : Nat} (b : Byte) (hw : Memory.wfFrom lo m = true) (hlo : lo ≤ addr)
    (ha : addr < Config.dbufBytes) : Memory.wfFrom lo (m.write addr b) = true := by
  induction m generalizing lo with
  | nil =>
    unfold Memory.write
    split
    · rfl
    · rw [Memory.wfFrom_cons]; exact ⟨hlo, ha, ‹_›, rfl⟩
  | cons c rest ih =>
    obtain ⟨x, v⟩ := c
    have hc := Memory.wfFrom_cons.1 hw
    unfold Memory.write
    split
    · split
      · exact hw
      · rw [Memory.wfFrom_cons]
        exact ⟨hlo, ha, ‹_›, Memory.wfFrom_cons.2 ⟨by omega, hc.2⟩⟩
    · split
      · rename_i he
        split
        · exact Memory.wfFrom_le (by omega) hc.2.2.2
        · rw [Memory.wfFrom_cons, he]
          exact ⟨hc.1, hc.2.1, ‹_›, hc.2.2.2⟩
      · rw [Memory.wfFrom_cons]
        exact ⟨hc.1, hc.2.1, hc.2.2.1, ih hc.2.2.2 (by omega)⟩

/-- A store inside DBUF keeps the canonical form. -/
theorem Memory.write_wf {m : Memory} {addr : Nat} (b : Byte) (hw : m.wf = true) (ha : addr < Config.dbufBytes) :
    (m.write addr b).wf = true :=
  Memory.write_wfFrom b hw (Nat.zero_le _) ha

/-- A store of a byte string inside DBUF keeps the canonical form. -/
theorem Memory.writeBytes_wf {m : Memory} {off : Nat} {bs : List Byte} (hw : m.wf = true)
    (h : off + bs.length ≤ Config.dbufBytes) : (m.writeBytes off bs).wf = true := by
  induction bs generalizing m off with
  | nil => exact hw
  | cons b bs ih =>
    simp only [List.length_cons] at h
    exact ih (Memory.write_wf b hw (by omega)) (by omega)

/-! ## Reads -/

theorem Memory.read_below {m : Memory} {lo addr : Nat} (hw : Memory.wfFrom lo m = true) (h : addr < lo) :
    m.read addr = Memory.unlisted := by
  induction m generalizing lo with
  | nil => rfl
  | cons c rest ih =>
    obtain ⟨x, v⟩ := c
    have hc := Memory.wfFrom_cons.1 hw
    rw [Memory.read, if_neg (by omega)]
    exact ih hc.2.2.2 (by omega)

theorem Memory.read_write_of_ne (m : Memory) {addr a : Nat} (b : Byte) (h : a ≠ addr) :
    (m.write addr b).read a = m.read a := by
  induction m with
  | nil =>
    unfold Memory.write
    split
    · rfl
    · simp [Memory.read, h]
  | cons c rest ih =>
    obtain ⟨x, v⟩ := c
    unfold Memory.write
    split
    · split
      · rfl
      · simp [Memory.read, h]
    · split
      · rename_i he
        subst he
        split <;> simp [Memory.read, h]
      · simp [Memory.read, ih]

theorem Memory.read_write_self_from {m : Memory} {lo addr : Nat} (b : Byte) (hw : Memory.wfFrom lo m = true) :
    (m.write addr b).read addr = b := by
  induction m generalizing lo with
  | nil =>
    unfold Memory.write
    split <;> simp_all [Memory.read]
  | cons c rest ih =>
    obtain ⟨x, v⟩ := c
    have hc := Memory.wfFrom_cons.1 hw
    unfold Memory.write
    split
    · split
      · rename_i hb
        rw [Memory.read, if_neg (by omega), hb]
        exact Memory.read_below hc.2.2.2 (by omega)
      · simp [Memory.read]
    · split
      · rename_i he
        split
        · rename_i hb
          rw [hb]
          exact Memory.read_below hc.2.2.2 (by omega)
        · simp [Memory.read]
      · rw [Memory.read, if_neg ‹_›]
        exact ih hc.2.2.2

theorem Memory.read_write_self {m : Memory} {addr : Nat} (b : Byte) (hw : m.wf = true) :
    (m.write addr b).read addr = b :=
  Memory.read_write_self_from b hw

/-- A byte outside the stored range reads as before. -/
theorem Memory.read_writeBytes_outside (m : Memory) {off a : Nat} {bs : List Byte} (h : a < off ∨ off + bs.length ≤ a) :
    (m.writeBytes off bs).read a = m.read a := by
  induction bs generalizing m off with
  | nil => rfl
  | cons b bs ih =>
    simp only [List.length_cons] at h
    rw [Memory.writeBytes, ih _ (by omega), Memory.read_write_of_ne m b (by omega)]

/-- A byte inside the stored range reads as the byte stored there. -/
theorem Memory.read_writeBytes_inside {m : Memory} {off i : Nat} {bs : List Byte} (hw : m.wf = true)
    (h : off + bs.length ≤ Config.dbufBytes) (hi : i < bs.length) : (m.writeBytes off bs).read (off + i) = bs[i] := by
  induction bs generalizing m off i with
  | nil => simp at hi
  | cons b bs ih =>
    simp only [List.length_cons] at h hi
    have hw' := Memory.write_wf b hw (addr := off) (by omega)
    cases i with
    | zero =>
      simp only [Nat.add_zero, List.getElem_cons_zero]
      rw [Memory.writeBytes, Memory.read_writeBytes_outside _ (by omega), Memory.read_write_self b hw]
    | succ i =>
      rw [Memory.writeBytes, show off + (i + 1) = off + 1 + i by omega, ih hw' (by omega) (by omega)]
      rfl

@[simp] theorem Memory.readBytes_length (m : Memory) (off len : Nat) : (m.readBytes off len).length = len := by
  induction len generalizing off with
  | zero => rfl
  | succ len ih => simp [Memory.readBytes, ih]

theorem Memory.readBytes_getElem (m : Memory) (off len i : Nat) (h : i < (m.readBytes off len).length) :
    (m.readBytes off len)[i] = m.read (off + i) := by
  induction len generalizing off i with
  | zero => simp at h
  | succ len ih =>
    cases i with
    | zero => rfl
    | succ i =>
      simp only [Memory.readBytes, List.getElem_cons_succ]
      rw [ih, show off + 1 + i = off + (i + 1) by omega]

/-- A byte string reads back as it was stored. -/
theorem Memory.readBytes_writeBytes {m : Memory} {off : Nat} {bs : List Byte} (hw : m.wf = true)
    (h : off + bs.length ≤ Config.dbufBytes) : (m.writeBytes off bs).readBytes off bs.length = bs := by
  refine List.ext_getElem (by simp) fun i h1 h2 => ?_
  rw [Memory.readBytes_getElem, Memory.read_writeBytes_inside hw h h2]

end Sys2Proof.Machine
end

