-- ==== Sys2Proof/Laws/State.lean ====
section
/-! SUPPORT. One lemma for each field and each update of State, and the reads of the register files after their writes. -/
namespace Sys2Proof.Machine

variable (s : State)

@[simp] theorem setR_r (i : RIdx) (v : Word) : (s.setR i v).r = s.r.set i v := rfl
@[simp] theorem setR_a (i : RIdx) (v : Word) : (s.setR i v).a = s.a := rfl
@[simp] theorem setR_j (i : RIdx) (v : Word) : (s.setR i v).j = s.j := rfl
@[simp] theorem setR_flags (i : RIdx) (v : Word) : (s.setR i v).flags = s.flags := rfl
@[simp] theorem setR_err (i : RIdx) (v : Word) : (s.setR i v).err = s.err := rfl
@[simp] theorem setR_errcode (i : RIdx) (v : Word) : (s.setR i v).errcode = s.errcode := rfl
@[simp] theorem setR_errcmd (i : RIdx) (v : Word) : (s.setR i v).errcmd = s.errcmd := rfl
@[simp] theorem setR_hc (i : RIdx) (v : Word) : (s.setR i v).hc = s.hc := rfl
@[simp] theorem setR_hkey (i : RIdx) (v : Word) : (s.setR i v).hkey = s.hkey := rfl
@[simp] theorem setR_dbuf (i : RIdx) (v : Word) : (s.setR i v).dbuf = s.dbuf := rfl
@[simp] theorem setR_wnafCache (i : RIdx) (v : Word) : (s.setR i v).wnafCache = s.wnafCache := rfl
@[simp] theorem setR_hostIn (i : RIdx) (v : Word) : (s.setR i v).hostIn = s.hostIn := rfl
@[simp] theorem setR_hostOut (i : RIdx) (v : Word) : (s.setR i v).hostOut = s.hostOut := rfl

@[simp] theorem setNatR_r (i : RIdx) (v : Nat) : (s.setNatR i v).r = s.r.set i (BitVec.ofNat 256 v) := rfl
@[simp] theorem setNatR_a (i : RIdx) (v : Nat) : (s.setNatR i v).a = s.a := rfl
@[simp] theorem setNatR_j (i : RIdx) (v : Nat) : (s.setNatR i v).j = s.j := rfl
@[simp] theorem setNatR_flags (i : RIdx) (v : Nat) : (s.setNatR i v).flags = s.flags := rfl
@[simp] theorem setNatR_err (i : RIdx) (v : Nat) : (s.setNatR i v).err = s.err := rfl
@[simp] theorem setNatR_errcode (i : RIdx) (v : Nat) : (s.setNatR i v).errcode = s.errcode := rfl
@[simp] theorem setNatR_errcmd (i : RIdx) (v : Nat) : (s.setNatR i v).errcmd = s.errcmd := rfl
@[simp] theorem setNatR_hc (i : RIdx) (v : Nat) : (s.setNatR i v).hc = s.hc := rfl
@[simp] theorem setNatR_hkey (i : RIdx) (v : Nat) : (s.setNatR i v).hkey = s.hkey := rfl
@[simp] theorem setNatR_dbuf (i : RIdx) (v : Nat) : (s.setNatR i v).dbuf = s.dbuf := rfl
@[simp] theorem setNatR_wnafCache (i : RIdx) (v : Nat) : (s.setNatR i v).wnafCache = s.wnafCache := rfl
@[simp] theorem setNatR_hostIn (i : RIdx) (v : Nat) : (s.setNatR i v).hostIn = s.hostIn := rfl
@[simp] theorem setNatR_hostOut (i : RIdx) (v : Nat) : (s.setNatR i v).hostOut = s.hostOut := rfl

@[simp] theorem setA_r (i : AIdx) (q : APoint) : (s.setA i q).r = s.r := rfl
@[simp] theorem setA_a (i : AIdx) (q : APoint) : (s.setA i q).a = s.a.set i q := rfl
@[simp] theorem setA_j (i : AIdx) (q : APoint) : (s.setA i q).j = s.j := rfl
@[simp] theorem setA_flags (i : AIdx) (q : APoint) : (s.setA i q).flags = s.flags := rfl
@[simp] theorem setA_err (i : AIdx) (q : APoint) : (s.setA i q).err = s.err := rfl
@[simp] theorem setA_errcode (i : AIdx) (q : APoint) : (s.setA i q).errcode = s.errcode := rfl
@[simp] theorem setA_errcmd (i : AIdx) (q : APoint) : (s.setA i q).errcmd = s.errcmd := rfl
@[simp] theorem setA_hc (i : AIdx) (q : APoint) : (s.setA i q).hc = s.hc := rfl
@[simp] theorem setA_hkey (i : AIdx) (q : APoint) : (s.setA i q).hkey = s.hkey := rfl
@[simp] theorem setA_dbuf (i : AIdx) (q : APoint) : (s.setA i q).dbuf = s.dbuf := rfl
@[simp] theorem setA_wnafCache (i : AIdx) (q : APoint) : (s.setA i q).wnafCache = s.wnafCache := rfl
@[simp] theorem setA_hostIn (i : AIdx) (q : APoint) : (s.setA i q).hostIn = s.hostIn := rfl
@[simp] theorem setA_hostOut (i : AIdx) (q : APoint) : (s.setA i q).hostOut = s.hostOut := rfl

@[simp] theorem setJ_r (i : JIdx) (q : JPoint) : (s.setJ i q).r = s.r := rfl
@[simp] theorem setJ_a (i : JIdx) (q : JPoint) : (s.setJ i q).a = s.a := rfl
@[simp] theorem setJ_j (i : JIdx) (q : JPoint) : (s.setJ i q).j = s.j.set i q := rfl
@[simp] theorem setJ_flags (i : JIdx) (q : JPoint) : (s.setJ i q).flags = s.flags := rfl
@[simp] theorem setJ_err (i : JIdx) (q : JPoint) : (s.setJ i q).err = s.err := rfl
@[simp] theorem setJ_errcode (i : JIdx) (q : JPoint) : (s.setJ i q).errcode = s.errcode := rfl
@[simp] theorem setJ_errcmd (i : JIdx) (q : JPoint) : (s.setJ i q).errcmd = s.errcmd := rfl
@[simp] theorem setJ_hc (i : JIdx) (q : JPoint) : (s.setJ i q).hc = s.hc := rfl
@[simp] theorem setJ_hkey (i : JIdx) (q : JPoint) : (s.setJ i q).hkey = s.hkey := rfl
@[simp] theorem setJ_dbuf (i : JIdx) (q : JPoint) : (s.setJ i q).dbuf = s.dbuf := rfl
@[simp] theorem setJ_wnafCache (i : JIdx) (q : JPoint) : (s.setJ i q).wnafCache = s.wnafCache := rfl
@[simp] theorem setJ_hostIn (i : JIdx) (q : JPoint) : (s.setJ i q).hostIn = s.hostIn := rfl
@[simp] theorem setJ_hostOut (i : JIdx) (q : JPoint) : (s.setJ i q).hostOut = s.hostOut := rfl

@[simp] theorem setT_r (b : Bool) : (s.setT b).r = s.r := rfl
@[simp] theorem setT_a (b : Bool) : (s.setT b).a = s.a := rfl
@[simp] theorem setT_j (b : Bool) : (s.setT b).j = s.j := rfl
@[simp] theorem setT_flags (b : Bool) : (s.setT b).flags = { s.flags with t := b } := rfl
@[simp] theorem setT_err (b : Bool) : (s.setT b).err = s.err := rfl
@[simp] theorem setT_errcode (b : Bool) : (s.setT b).errcode = s.errcode := rfl
@[simp] theorem setT_errcmd (b : Bool) : (s.setT b).errcmd = s.errcmd := rfl
@[simp] theorem setT_hc (b : Bool) : (s.setT b).hc = s.hc := rfl
@[simp] theorem setT_hkey (b : Bool) : (s.setT b).hkey = s.hkey := rfl
@[simp] theorem setT_dbuf (b : Bool) : (s.setT b).dbuf = s.dbuf := rfl
@[simp] theorem setT_wnafCache (b : Bool) : (s.setT b).wnafCache = s.wnafCache := rfl
@[simp] theorem setT_hostIn (b : Bool) : (s.setT b).hostIn = s.hostIn := rfl
@[simp] theorem setT_hostOut (b : Bool) : (s.setT b).hostOut = s.hostOut := rfl

@[simp] theorem setHalfSigns_r (k1 k2 : Int) : (s.setHalfSigns k1 k2).r = s.r := rfl
@[simp] theorem setHalfSigns_a (k1 k2 : Int) : (s.setHalfSigns k1 k2).a = s.a := rfl
@[simp] theorem setHalfSigns_j (k1 k2 : Int) : (s.setHalfSigns k1 k2).j = s.j := rfl
@[simp] theorem setHalfSigns_flags (k1 k2 : Int) : (s.setHalfSigns k1 k2).flags = { s.flags with n1 := decide (k1 < 0), n2 := decide (k2 < 0) } := rfl
@[simp] theorem setHalfSigns_err (k1 k2 : Int) : (s.setHalfSigns k1 k2).err = s.err := rfl
@[simp] theorem setHalfSigns_errcode (k1 k2 : Int) : (s.setHalfSigns k1 k2).errcode = s.errcode := rfl
@[simp] theorem setHalfSigns_errcmd (k1 k2 : Int) : (s.setHalfSigns k1 k2).errcmd = s.errcmd := rfl
@[simp] theorem setHalfSigns_hc (k1 k2 : Int) : (s.setHalfSigns k1 k2).hc = s.hc := rfl
@[simp] theorem setHalfSigns_hkey (k1 k2 : Int) : (s.setHalfSigns k1 k2).hkey = s.hkey := rfl
@[simp] theorem setHalfSigns_dbuf (k1 k2 : Int) : (s.setHalfSigns k1 k2).dbuf = s.dbuf := rfl
@[simp] theorem setHalfSigns_wnafCache (k1 k2 : Int) : (s.setHalfSigns k1 k2).wnafCache = s.wnafCache := rfl
@[simp] theorem setHalfSigns_hostIn (k1 k2 : Int) : (s.setHalfSigns k1 k2).hostIn = s.hostIn := rfl
@[simp] theorem setHalfSigns_hostOut (k1 k2 : Int) : (s.setHalfSigns k1 k2).hostOut = s.hostOut := rfl

@[simp] theorem memWrite_r (off : Nat) (bs : List Byte) : (s.memWrite off bs).r = s.r := rfl
@[simp] theorem memWrite_a (off : Nat) (bs : List Byte) : (s.memWrite off bs).a = s.a := rfl
@[simp] theorem memWrite_j (off : Nat) (bs : List Byte) : (s.memWrite off bs).j = s.j := rfl
@[simp] theorem memWrite_flags (off : Nat) (bs : List Byte) : (s.memWrite off bs).flags = s.flags := rfl
@[simp] theorem memWrite_err (off : Nat) (bs : List Byte) : (s.memWrite off bs).err = s.err := rfl
@[simp] theorem memWrite_errcode (off : Nat) (bs : List Byte) : (s.memWrite off bs).errcode = s.errcode := rfl
@[simp] theorem memWrite_errcmd (off : Nat) (bs : List Byte) : (s.memWrite off bs).errcmd = s.errcmd := rfl
@[simp] theorem memWrite_hc (off : Nat) (bs : List Byte) : (s.memWrite off bs).hc = s.hc := rfl
@[simp] theorem memWrite_hkey (off : Nat) (bs : List Byte) : (s.memWrite off bs).hkey = s.hkey := rfl
@[simp] theorem memWrite_dbuf (off : Nat) (bs : List Byte) : (s.memWrite off bs).dbuf = s.dbuf.writeBytes off bs := rfl
@[simp] theorem memWrite_wnafCache (off : Nat) (bs : List Byte) : (s.memWrite off bs).wnafCache = s.wnafCache := rfl
@[simp] theorem memWrite_hostIn (off : Nat) (bs : List Byte) : (s.memWrite off bs).hostIn = s.hostIn := rfl
@[simp] theorem memWrite_hostOut (off : Nat) (bs : List Byte) : (s.memWrite off bs).hostOut = s.hostOut := rfl

@[simp] theorem setHash_r (hc : HashCtx) (k : Vector Byte 128) : (s.setHash hc k).r = s.r := rfl
@[simp] theorem setHash_a (hc : HashCtx) (k : Vector Byte 128) : (s.setHash hc k).a = s.a := rfl
@[simp] theorem setHash_j (hc : HashCtx) (k : Vector Byte 128) : (s.setHash hc k).j = s.j := rfl
@[simp] theorem setHash_flags (hc : HashCtx) (k : Vector Byte 128) : (s.setHash hc k).flags = s.flags := rfl
@[simp] theorem setHash_err (hc : HashCtx) (k : Vector Byte 128) : (s.setHash hc k).err = s.err := rfl
@[simp] theorem setHash_errcode (hc : HashCtx) (k : Vector Byte 128) : (s.setHash hc k).errcode = s.errcode := rfl
@[simp] theorem setHash_errcmd (hc : HashCtx) (k : Vector Byte 128) : (s.setHash hc k).errcmd = s.errcmd := rfl
@[simp] theorem setHash_hc (hc : HashCtx) (k : Vector Byte 128) : (s.setHash hc k).hc = hc := rfl
@[simp] theorem setHash_hkey (hc : HashCtx) (k : Vector Byte 128) : (s.setHash hc k).hkey = k := rfl
@[simp] theorem setHash_dbuf (hc : HashCtx) (k : Vector Byte 128) : (s.setHash hc k).dbuf = s.dbuf := rfl
@[simp] theorem setHash_wnafCache (hc : HashCtx) (k : Vector Byte 128) : (s.setHash hc k).wnafCache = s.wnafCache := rfl
@[simp] theorem setHash_hostIn (hc : HashCtx) (k : Vector Byte 128) : (s.setHash hc k).hostIn = s.hostIn := rfl
@[simp] theorem setHash_hostOut (hc : HashCtx) (k : Vector Byte 128) : (s.setHash hc k).hostOut = s.hostOut := rfl

@[simp] theorem destroyHash_r : (s.destroyHash).r = s.r := rfl
@[simp] theorem destroyHash_a : (s.destroyHash).a = s.a := rfl
@[simp] theorem destroyHash_j : (s.destroyHash).j = s.j := rfl
@[simp] theorem destroyHash_flags : (s.destroyHash).flags = s.flags := rfl
@[simp] theorem destroyHash_err : (s.destroyHash).err = s.err := rfl
@[simp] theorem destroyHash_errcode : (s.destroyHash).errcode = s.errcode := rfl
@[simp] theorem destroyHash_errcmd : (s.destroyHash).errcmd = s.errcmd := rfl
@[simp] theorem destroyHash_hc : (s.destroyHash).hc = HashCtx.idle := rfl
@[simp] theorem destroyHash_hkey : (s.destroyHash).hkey = pad128 [] := rfl
@[simp] theorem destroyHash_dbuf : (s.destroyHash).dbuf = s.dbuf := rfl
@[simp] theorem destroyHash_wnafCache : (s.destroyHash).wnafCache = s.wnafCache := rfl
@[simp] theorem destroyHash_hostIn : (s.destroyHash).hostIn = s.hostIn := rfl
@[simp] theorem destroyHash_hostOut : (s.destroyHash).hostOut = s.hostOut := rfl

@[simp] theorem faultEntry_r (e : ErrCode) (w : Word32) : (faultEntry e w s).r = s.r := rfl
@[simp] theorem faultEntry_a (e : ErrCode) (w : Word32) : (faultEntry e w s).a = s.a := rfl
@[simp] theorem faultEntry_j (e : ErrCode) (w : Word32) : (faultEntry e w s).j = s.j := rfl
@[simp] theorem faultEntry_flags (e : ErrCode) (w : Word32) : (faultEntry e w s).flags = s.flags := rfl
@[simp] theorem faultEntry_err (e : ErrCode) (w : Word32) : (faultEntry e w s).err = true := rfl
@[simp] theorem faultEntry_errcode (e : ErrCode) (w : Word32) : (faultEntry e w s).errcode = e.code := rfl
@[simp] theorem faultEntry_errcmd (e : ErrCode) (w : Word32) : (faultEntry e w s).errcmd = w := rfl
@[simp] theorem faultEntry_hc (e : ErrCode) (w : Word32) : (faultEntry e w s).hc = s.hc := rfl
@[simp] theorem faultEntry_hkey (e : ErrCode) (w : Word32) : (faultEntry e w s).hkey = s.hkey := rfl
@[simp] theorem faultEntry_dbuf (e : ErrCode) (w : Word32) : (faultEntry e w s).dbuf = s.dbuf := rfl
@[simp] theorem faultEntry_wnafCache (e : ErrCode) (w : Word32) : (faultEntry e w s).wnafCache = s.wnafCache := rfl
@[simp] theorem faultEntry_hostIn (e : ErrCode) (w : Word32) : (faultEntry e w s).hostIn = s.hostIn := rfl
@[simp] theorem faultEntry_hostOut (e : ErrCode) (w : Word32) : (faultEntry e w s).hostOut = s.hostOut := rfl

@[simp] theorem clearFault_r : (clearFault s).r = s.r := rfl
@[simp] theorem clearFault_a : (clearFault s).a = s.a := rfl
@[simp] theorem clearFault_j : (clearFault s).j = s.j := rfl
@[simp] theorem clearFault_flags : (clearFault s).flags = s.flags := rfl
@[simp] theorem clearFault_err : (clearFault s).err = false := rfl
@[simp] theorem clearFault_errcode : (clearFault s).errcode = 0 := rfl
@[simp] theorem clearFault_errcmd : (clearFault s).errcmd = 0 := rfl
@[simp] theorem clearFault_hc : (clearFault s).hc = s.hc := rfl
@[simp] theorem clearFault_hkey : (clearFault s).hkey = s.hkey := rfl
@[simp] theorem clearFault_dbuf : (clearFault s).dbuf = s.dbuf := rfl
@[simp] theorem clearFault_wnafCache : (clearFault s).wnafCache = s.wnafCache := rfl
@[simp] theorem clearFault_hostIn : (clearFault s).hostIn = s.hostIn := rfl
@[simp] theorem clearFault_hostOut : (clearFault s).hostOut = s.hostOut := rfl

@[simp] theorem answerRead_r (w : Word32) : (answerRead w s).r = s.r := rfl
@[simp] theorem answerRead_a (w : Word32) : (answerRead w s).a = s.a := rfl
@[simp] theorem answerRead_j (w : Word32) : (answerRead w s).j = s.j := rfl
@[simp] theorem answerRead_flags (w : Word32) : (answerRead w s).flags = s.flags := rfl
@[simp] theorem answerRead_err (w : Word32) : (answerRead w s).err = s.err := rfl
@[simp] theorem answerRead_errcode (w : Word32) : (answerRead w s).errcode = s.errcode := rfl
@[simp] theorem answerRead_errcmd (w : Word32) : (answerRead w s).errcmd = s.errcmd := rfl
@[simp] theorem answerRead_hc (w : Word32) : (answerRead w s).hc = s.hc := rfl
@[simp] theorem answerRead_hkey (w : Word32) : (answerRead w s).hkey = s.hkey := rfl
@[simp] theorem answerRead_dbuf (w : Word32) : (answerRead w s).dbuf = s.dbuf := rfl
@[simp] theorem answerRead_wnafCache (w : Word32) : (answerRead w s).wnafCache = s.wnafCache := rfl
@[simp] theorem answerRead_hostIn (w : Word32) : (answerRead w s).hostIn = s.hostIn := rfl
@[simp] theorem answerRead_hostOut (w : Word32) : (answerRead w s).hostOut = s.hostOut ++ [w] := rfl

@[simp] theorem resetBlock_r : (resetBlock s).r = State.reset.r := rfl
@[simp] theorem resetBlock_a : (resetBlock s).a = State.reset.a := rfl
@[simp] theorem resetBlock_j : (resetBlock s).j = State.reset.j := rfl
@[simp] theorem resetBlock_flags : (resetBlock s).flags = State.reset.flags := rfl
@[simp] theorem resetBlock_err : (resetBlock s).err = State.reset.err := rfl
@[simp] theorem resetBlock_errcode : (resetBlock s).errcode = State.reset.errcode := rfl
@[simp] theorem resetBlock_errcmd : (resetBlock s).errcmd = State.reset.errcmd := rfl
@[simp] theorem resetBlock_hc : (resetBlock s).hc = State.reset.hc := rfl
@[simp] theorem resetBlock_hkey : (resetBlock s).hkey = State.reset.hkey := rfl
@[simp] theorem resetBlock_dbuf : (resetBlock s).dbuf = State.reset.dbuf := rfl
@[simp] theorem resetBlock_wnafCache : (resetBlock s).wnafCache = State.reset.wnafCache := rfl
@[simp] theorem resetBlock_hostIn : (resetBlock s).hostIn = s.hostIn := rfl
@[simp] theorem resetBlock_hostOut : (resetBlock s).hostOut = s.hostOut := rfl

/-! ## Updates that change at most the hidden cache -/

@[simp] theorem touchTable_r (w : Nat) (q : Pt) : (s.touchTable w q).r = s.r := by
  cases q <;> rfl

@[simp] theorem touchTable_a (w : Nat) (q : Pt) : (s.touchTable w q).a = s.a := by
  cases q <;> rfl

@[simp] theorem touchTable_j (w : Nat) (q : Pt) : (s.touchTable w q).j = s.j := by
  cases q <;> rfl

@[simp] theorem touchTable_flags (w : Nat) (q : Pt) : (s.touchTable w q).flags = s.flags := by
  cases q <;> rfl

@[simp] theorem touchTable_err (w : Nat) (q : Pt) : (s.touchTable w q).err = s.err := by
  cases q <;> rfl

@[simp] theorem touchTable_errcode (w : Nat) (q : Pt) : (s.touchTable w q).errcode = s.errcode := by
  cases q <;> rfl

@[simp] theorem touchTable_errcmd (w : Nat) (q : Pt) : (s.touchTable w q).errcmd = s.errcmd := by
  cases q <;> rfl

@[simp] theorem touchTable_hc (w : Nat) (q : Pt) : (s.touchTable w q).hc = s.hc := by
  cases q <;> rfl

@[simp] theorem touchTable_hkey (w : Nat) (q : Pt) : (s.touchTable w q).hkey = s.hkey := by
  cases q <;> rfl

@[simp] theorem touchTable_dbuf (w : Nat) (q : Pt) : (s.touchTable w q).dbuf = s.dbuf := by
  cases q <;> rfl

@[simp] theorem touchTable_hostIn (w : Nat) (q : Pt) : (s.touchTable w q).hostIn = s.hostIn := by
  cases q <;> rfl

@[simp] theorem touchTable_hostOut (w : Nat) (q : Pt) : (s.touchTable w q).hostOut = s.hostOut := by
  cases q <;> rfl

/-- A multiply-add's tables change nothing but the hidden cache. -/
theorem touchTables_eq (terms : List (Nat × Pt)) :
    ∃ c, s.touchTables terms = { s with wnafCache := c } := by
  induction terms generalizing s with
  | nil => exact ⟨s.wnafCache, rfl⟩
  | cons t terms ih =>
    obtain ⟨c, hc⟩ := ih (s.touchTable Config.wDefault t.2)
    refine ⟨c, ?_⟩
    rw [State.touchTables, List.foldl_cons, ← State.touchTables, hc]
    cases t.2 <;> rfl

@[simp] theorem touchTables_r (terms : List (Nat × Pt)) : (s.touchTables terms).r = s.r := by
  obtain ⟨c, hc⟩ := touchTables_eq s terms
  rw [hc]

@[simp] theorem touchTables_a (terms : List (Nat × Pt)) : (s.touchTables terms).a = s.a := by
  obtain ⟨c, hc⟩ := touchTables_eq s terms
  rw [hc]

@[simp] theorem touchTables_j (terms : List (Nat × Pt)) : (s.touchTables terms).j = s.j := by
  obtain ⟨c, hc⟩ := touchTables_eq s terms
  rw [hc]

@[simp] theorem touchTables_flags (terms : List (Nat × Pt)) : (s.touchTables terms).flags = s.flags := by
  obtain ⟨c, hc⟩ := touchTables_eq s terms
  rw [hc]

@[simp] theorem touchTables_err (terms : List (Nat × Pt)) : (s.touchTables terms).err = s.err := by
  obtain ⟨c, hc⟩ := touchTables_eq s terms
  rw [hc]

@[simp] theorem touchTables_errcode (terms : List (Nat × Pt)) : (s.touchTables terms).errcode = s.errcode := by
  obtain ⟨c, hc⟩ := touchTables_eq s terms
  rw [hc]

@[simp] theorem touchTables_errcmd (terms : List (Nat × Pt)) : (s.touchTables terms).errcmd = s.errcmd := by
  obtain ⟨c, hc⟩ := touchTables_eq s terms
  rw [hc]

@[simp] theorem touchTables_hc (terms : List (Nat × Pt)) : (s.touchTables terms).hc = s.hc := by
  obtain ⟨c, hc⟩ := touchTables_eq s terms
  rw [hc]

@[simp] theorem touchTables_hkey (terms : List (Nat × Pt)) : (s.touchTables terms).hkey = s.hkey := by
  obtain ⟨c, hc⟩ := touchTables_eq s terms
  rw [hc]

@[simp] theorem touchTables_dbuf (terms : List (Nat × Pt)) : (s.touchTables terms).dbuf = s.dbuf := by
  obtain ⟨c, hc⟩ := touchTables_eq s terms
  rw [hc]

@[simp] theorem touchTables_hostIn (terms : List (Nat × Pt)) : (s.touchTables terms).hostIn = s.hostIn := by
  obtain ⟨c, hc⟩ := touchTables_eq s terms
  rw [hc]

@[simp] theorem touchTables_hostOut (terms : List (Nat × Pt)) : (s.touchTables terms).hostOut = s.hostOut := by
  obtain ⟨c, hc⟩ := touchTables_eq s terms
  rw [hc]

/-! ## Register files: a read after a write -/

@[simp] theorem getR_setR_self (i : RIdx) (v : Word) : (s.setR i v).getR i = v := by
  simp [State.getR]

theorem getR_setR_of_ne {i k : RIdx} (h : k ≠ i) (v : Word) : (s.setR i v).getR k = s.getR k := by
  have : i.val ≠ k.val := fun e => h (Fin.ext e.symm)
  simp [State.getR, this]

@[simp] theorem getR_setNatR_self (i : RIdx) (v : Nat) : (s.setNatR i v).getR i = BitVec.ofNat 256 v :=
  getR_setR_self s i _

theorem getR_setNatR_of_ne {i k : RIdx} (h : k ≠ i) (v : Nat) : (s.setNatR i v).getR k = s.getR k :=
  getR_setR_of_ne s h _

@[simp] theorem natR_setNatR_self {v : Nat} (i : RIdx) (h : v < 2 ^ 256) : (s.setNatR i v).natR i = v := by
  rw [State.natR, getR_setNatR_self, BitVec.toNat_ofNat, Nat.mod_eq_of_lt h]

@[simp] theorem getA_setA_self (i : AIdx) (q : APoint) : (s.setA i q).getA i = q := by
  simp [State.getA]

theorem getA_setA_of_ne {i k : AIdx} (h : k ≠ i) (q : APoint) : (s.setA i q).getA k = s.getA k := by
  have : i.val ≠ k.val := fun e => h (Fin.ext e.symm)
  simp [State.getA, this]

@[simp] theorem getJ_setJ_self (i : JIdx) (q : JPoint) : (s.setJ i q).getJ i = q := by
  simp [State.getJ]

theorem getJ_setJ_of_ne {i k : JIdx} (h : k ≠ i) (q : JPoint) : (s.setJ i q).getJ k = s.getJ k := by
  have : i.val ≠ k.val := fun e => h (Fin.ext e.symm)
  simp [State.getJ, this]

/-- An integer register is below `2^256`. -/
theorem natR_lt (i : RIdx) : s.natR i < 2 ^ 256 := (s.getR i).isLt

end Sys2Proof.Machine
end

