-- ==== Sys2Proof/Laws/Ops.lean ====
section
/-! SUPPORT. What a command can do, said once: the two ends of `command` (60_exceptions.md R262, R263), the steps of a rule,
and each operand form. Later proofs cite these and unfold none of the definitions. -/
namespace Sys2Proof.Machine

/-! ## The steps of a rule -/

@[simp] theorem ok_bind {α β : Type} (x : α) (f : α → Except ErrCode β) :
    ((Except.ok x : Except ErrCode α) >>= f) = f x := rfl

@[simp] theorem error_bind {α β : Type} (e : ErrCode) (f : α → Except ErrCode β) :
    ((Except.error e : Except ErrCode α) >>= f) = .error e := rfl

/-- A rule that goes through went through each of its steps. -/
theorem bind_eq_ok {α β : Type} {m : Except ErrCode α} {f : α → Except ErrCode β} {y : β} :
    (m >>= f) = .ok y ↔ ∃ x, m = .ok x ∧ f x = .ok y := by
  cases m <;> simp

/-- A rule that raises a fault raises it in its first step or after it. -/
theorem bind_eq_error {α β : Type} {m : Except ErrCode α} {f : α → Except ErrCode β} {e : ErrCode} :
    (m >>= f) = .error e ↔ m = .error e ∨ ∃ x, m = .ok x ∧ f x = .error e := by
  cases m <;> simp

@[simp] theorem require_eq_ok {c : Prop} [Decidable c] {e : ErrCode} {u : Unit} : require c e = .ok u ↔ c := by
  unfold require; split <;> simp_all

@[simp] theorem require_eq_error {c : Prop} [Decidable c] {e e' : ErrCode} :
    require c e = .error e' ↔ ¬c ∧ e' = e := by
  unfold require; split <;> simp_all [eq_comm]

theorem require_true {c : Prop} [Decidable c] {e : ErrCode} (h : c) : require c e = .ok () := if_pos h

/-! ## The ends of a command -/

/-- A well-formed command whose rule goes through ends in the rule's state. -/
theorem command_ok {i : Instr} {s t : State} {rule : Except ErrCode State} (hw : i.wellFormed = true)
    (h : rule = .ok t) : command i s rule = .next t := by
  simp [command, hw, h, complete]

/-- A well-formed command whose rule raises `e` ends in fault entry. -/
theorem command_error {i : Instr} {s : State} {rule : Except ErrCode State} {e : ErrCode} (hw : i.wellFormed = true)
    (h : rule = .error e) : command i s rule = .next (faultEntry e (encode i) s) := by
  simp [command, hw, h, complete]

/-- An ill-formed command is an illegal one. -/
theorem command_illegal {i : Instr} {s : State} {rule : Except ErrCode State} (hw : i.wellFormed = false) :
    command i s rule = .next (faultEntry .illegalCmd (encode i) s) := by
  simp [command, hw, complete]

/-- EVERYTHING A COMMAND CAN DO: its rule's state, its rule's fault, or the illegal-command fault. -/
theorem command_cases (i : Instr) (s : State) (rule : Except ErrCode State) :
    (∃ t, i.wellFormed = true ∧ rule = .ok t ∧ command i s rule = .next t) ∨
    (∃ e, i.wellFormed = true ∧ rule = .error e ∧ command i s rule = .next (faultEntry e (encode i) s)) ∨
    (i.wellFormed = false ∧ command i s rule = .next (faultEntry .illegalCmd (encode i) s)) := by
  cases hw : i.wellFormed with
  | false => exact .inr (.inr ⟨rfl, command_illegal hw⟩)
  | true =>
    cases h : rule with
    | ok t => exact .inl ⟨t, rfl, rfl, by simp [command, hw, complete]⟩
    | error e => exact .inr (.inl ⟨e, rfl, rfl, by simp [command, hw, complete]⟩)

/-- A command never stops the machine. -/
theorem command_next (i : Instr) (s : State) (rule : Except ErrCode State) : ∃ t, command i s rule = .next t := by
  rcases command_cases i s rule with ⟨t, -, -, h⟩ | ⟨e, -, -, h⟩ | ⟨-, h⟩ <;> exact ⟨_, h⟩

/-- A command that leaves no fault behind ran its rule to the end. -/
theorem command_next_inv {i : Instr} {s t : State} {rule : Except ErrCode State} (h : command i s rule = .next t)
    (herr : t.err = false) : i.wellFormed = true ∧ rule = .ok t := by
  rcases command_cases i s rule with ⟨u, hw, hr, hc⟩ | ⟨e, -, -, hc⟩ | ⟨-, hc⟩
  · rw [hc] at h; cases h; exact ⟨hw, hr⟩
  · rw [hc] at h; cases h; simp at herr
  · rw [hc] at h; cases h; simp at herr

/-! ## Operands -/

theorem fieldOperand_eq_ok {s : State} {i : RIdx} {x : Nat} :
    fieldOperand s i = .ok x ↔ s.natR i < Config.p ∧ x = s.natR i := by
  unfold fieldOperand
  by_cases h : s.natR i < Config.p <;> simp [h, eq_comm]

theorem fieldOperand_eq_error {s : State} {i : RIdx} {e : ErrCode} :
    fieldOperand s i = .error e ↔ Config.p ≤ s.natR i ∧ e = .range := by
  unfold fieldOperand
  by_cases h : s.natR i < Config.p
  · simp [h, Nat.not_le.mpr h]
  · simp [h, Nat.not_lt.mp h, eq_comm]

theorem orderOperand_eq_ok {s : State} {i : RIdx} {x : Nat} :
    orderOperand s i = .ok x ↔ s.natR i < Config.n ∧ x = s.natR i := by
  unfold orderOperand
  by_cases h : s.natR i < Config.n <;> simp [h, eq_comm]

theorem orderOperand_eq_error {s : State} {i : RIdx} {e : ErrCode} :
    orderOperand s i = .error e ↔ Config.n ≤ s.natR i ∧ e = .range := by
  unfold orderOperand
  by_cases h : s.natR i < Config.n
  · simp [h, Nat.not_le.mpr h]
  · simp [h, Nat.not_lt.mp h, eq_comm]

theorem keyOperand_eq_ok {s : State} {i : RIdx} {x : Nat} :
    keyOperand s i = .ok x ↔ (1 ≤ s.natR i ∧ s.natR i < Config.n) ∧ x = s.natR i := by
  unfold keyOperand
  by_cases h : 1 ≤ s.natR i ∧ s.natR i < Config.n <;> simp only [h, if_true, if_false, Except.ok.injEq] <;>
    simp [eq_comm]

theorem finiteOperand_eq_ok {s : State} {i : AIdx} {q : APoint} :
    finiteOperand s i = .ok q ↔ (s.getA i).inf = false ∧ q = s.getA i := by
  unfold finiteOperand
  cases h : (s.getA i).inf <;> simp [eq_comm]

theorem jacOperand_eq_ok {s : State} {i : JIdx} {q : Jac} :
    jacOperand s i = .ok q ↔
      ((s.getJ i).X.toNat < Config.p ∧ (s.getJ i).Y.toNat < Config.p ∧ (s.getJ i).Z.toNat < Config.p) ∧
        q = (s.getJ i).toJac := by
  unfold jacOperand
  by_cases h : (s.getJ i).X.toNat < Config.p ∧ (s.getJ i).Y.toNat < Config.p ∧ (s.getJ i).Z.toNat < Config.p <;>
    simp only [h, if_true, if_false, Except.ok.injEq] <;> simp [eq_comm]

theorem checkBuf_eq_ok {off len : Nat} {u : Unit} : checkBuf off len = .ok u ↔ off + len ≤ Config.dbufBytes :=
  require_eq_ok

theorem bufOperand_eq_ok {s : State} {off len : Nat} {bs : List Byte} :
    bufOperand s off len = .ok bs ↔ off + len ≤ Config.dbufBytes ∧ bs = s.memRead off len := by
  simp only [bufOperand, bind_eq_ok, checkBuf_eq_ok]
  simp [eq_comm]

/-- The point a group command computes with is well formed: infinity, or on the curve (00_scope.md R15). -/
theorem checkPoint_wf {q : APoint} {t : Pt} (h : checkPoint q = .ok t) : t.wf = true ∧ t = q.toPt := by
  unfold checkPoint at h
  split at h
  · cases h; simp_all [Pt.wf, APoint.toPt]
  · split at h
    · cases h
    · split at h
      · cases h
        simp_all [Pt.wf, APoint.toPt, onCurve]
      · cases h

/-- A well-formed register value passes `check_point`. -/
theorem checkPoint_ok {q : APoint} (h : q.toPt.wf = true) : checkPoint q = .ok q.toPt := by
  unfold checkPoint
  cases hi : q.inf
  · simp only [APoint.toPt, hi, Pt.wf, onCurve, Bool.false_eq_true, if_false, Bool.and_eq_true, decide_eq_true_eq] at h
    obtain ⟨⟨hx, hy⟩, hc⟩ := h
    have : ¬(Config.p ≤ q.x.toNat ∨ Config.p ≤ q.y.toNat) := by omega
    simp [this, hc, APoint.toPt, hi]
  · simp [APoint.toPt, hi]

end Sys2Proof.Machine
end

