-- ==== Sys2Proof/Laws/PerInstr.lean ====
section
/-! SUPPORT. The fields of an encoded word, and for each constructor of `Instr` that its word decodes to it (30_encoding.md
R56 to R63, R67). -/
namespace Sys2Proof

/-! ## The fields of a word put together from fields -/

section FormatR
variable {op d a b c imm : Nat} (ho : op < 2 ^ 8) (hd : d < 2 ^ 4) (ha : a < 2 ^ 4) (hb : b < 2 ^ 4) (hc : c < 2 ^ 4)
  (hi : imm < 2 ^ 8)
include ho hd ha hb hc hi

theorem encR_toNat :
    (encR op d a b c imm).toNat = op * 2 ^ 24 + d * 2 ^ 20 + a * 2 ^ 16 + b * 2 ^ 12 + c * 2 ^ 8 + imm := by
  rw [encR, BitVec.toNat_ofNat]; omega

theorem opOf_encR : opOf (encR op d a b c imm) = op := by
  rw [opOf, encR_toNat ho hd ha hb hc hi]; omega
theorem dOf_encR : dOf (encR op d a b c imm) = d := by
  rw [dOf, encR_toNat ho hd ha hb hc hi]; omega
theorem aOf_encR : aOf (encR op d a b c imm) = a := by
  rw [aOf, encR_toNat ho hd ha hb hc hi]; omega
theorem bOf_encR : bOf (encR op d a b c imm) = b := by
  rw [bOf, encR_toNat ho hd ha hb hc hi]; omega
theorem cOf_encR : cOf (encR op d a b c imm) = c := by
  rw [cOf, encR_toNat ho hd ha hb hc hi]; omega
theorem immOf_encR : immOf (encR op d a b c imm) = imm := by
  rw [immOf, encR_toNat ho hd ha hb hc hi]; omega
end FormatR

section FormatM
variable {op d off len : Nat} (ho : op < 2 ^ 8) (hd : d < 2 ^ 4) (hf : off < 2 ^ 12) (hl : len < 2 ^ 8)
include ho hd hf hl

theorem encM_toNat : (encM op d off len).toNat = op * 2 ^ 24 + d * 2 ^ 20 + off * 2 ^ 8 + len := by
  rw [encM, BitVec.toNat_ofNat]; omega

theorem opOf_encM : opOf (encM op d off len) = op := by rw [opOf, encM_toNat ho hd hf hl]; omega
theorem dOf_encM : dOf (encM op d off len) = d := by rw [dOf, encM_toNat ho hd hf hl]; omega
theorem offMOf_encM : offMOf (encM op d off len) = off := by rw [offMOf, encM_toNat ho hd hf hl]; omega
theorem immOf_encM : immOf (encM op d off len) = len := by rw [immOf, encM_toNat ho hd hf hl]; omega
end FormatM

section FormatB
variable {op off len : Nat} (ho : op < 2 ^ 8) (hf : off < 2 ^ 12) (hl : len < 2 ^ 12)
include ho hf hl

theorem encB_toNat : (encB op off len).toNat = op * 2 ^ 24 + off * 2 ^ 12 + len := by
  rw [encB, BitVec.toNat_ofNat]; omega

theorem opOf_encB : opOf (encB op off len) = op := by rw [opOf, encB_toNat ho hf hl]; omega
theorem offBOf_encB : offBOf (encB op off len) = off := by rw [offBOf, encB_toNat ho hf hl]; omega
theorem lenBOf_encB : lenBOf (encB op off len) = len := by rw [lenBOf, encB_toNat ho hf hl]; omega
end FormatB

/-! ## Operands from their fields -/

@[simp] theorem rIdx_val (i : RIdx) : rIdx i.val = i := Fin.ext (Nat.mod_eq_of_lt i.isLt)

@[simp] theorem pointIdx_val (i : Fin 8) : pointIdx i.val = .ok i := by simp [pointIdx]

@[simp] theorem flagImm_toNat (b : Bool) : flagImm b.toNat = .ok b := by cases b <;> rfl

@[simp] theorem constOf_code (k : CurveConst) : constOf k.code = .ok k := by cases k <;> rfl

@[simp] theorem algOf_code (alg : HashAlg) : algOf alg.code = .ok alg := by cases alg <;> rfl

theorem CurveConst.code_lt (k : CurveConst) : k.code < 2 ^ 8 := by cases k <;> decide

theorem HashAlg.code_lt (alg : HashAlg) : alg.code < 2 ^ 4 := by cases alg <;> decide

theorem NonceSrc.cField_lt (src : NonceSrc) : src.cField < 2 ^ 4 := by cases src <;> simp [NonceSrc.cField]

theorem NonceSrc.cntField_lt (src : NonceSrc) : src.cntField < 2 ^ 5 := by
  cases src <;> simp [NonceSrc.cntField]
  rename_i cnt; exact cnt.isLt

theorem NonceSrc.tag_lt (src : NonceSrc) : src.tag < 2 ^ 2 := by cases src <;> simp [NonceSrc.tag]

@[simp] theorem nonceSrcOf_fields (src : NonceSrc) : nonceSrcOf src.tag src.cField src.cntField = .ok src := by
  cases src <;> simp [nonceSrcOf, NonceSrc.tag, NonceSrc.cField, NonceSrc.cntField]

theorem signImm_lt (lowS : Bool) (src : NonceSrc) : lowS.toNat + src.tag * 2 + src.cntField * 2 ^ 3 < 2 ^ 8 := by
  have := lowS.toNat_lt; have := src.tag_lt; have := src.cntField_lt; omega

/-! ## One word, one command -/

@[simp] theorem illegal_ok_bind {α β : Type} (x : α) (f : α → Except Illegal β) :
    ((Except.ok x : Except Illegal α) >>= f) = f x := rfl

@[simp] theorem illegal_error_bind {α β : Type} (e : Illegal) (f : α → Except Illegal β) :
    ((Except.error e : Except Illegal α) >>= f) = .error e := rfl

/-- A word whose opcode has the decoder `dec`, which reads a well-formed command from it, decodes to that command. -/
theorem decode_of_decoder {i : Instr} {w : Word32} {dec : Decoder} (hl : decoders.lookup (opOf w) = some dec)
    (hd : dec w = .ok i) (hw : i.wellFormed = true) : decode w = .ok i := by
  have hc : i.check = .ok () := by
    unfold Instr.wellFormed at hw
    split at hw
    · assumption
    · cases hw
  unfold decode
  rw [hl]
  show (dec w >>= fun i => i.check >>= fun _ => Except.ok i) = _
  rw [hd]
  show (i.check >>= fun _ => Except.ok i) = _
  rw [hc]
  rfl

end Sys2Proof

namespace Sys2Proof.Laws.RoundTrip

/-- The word of a well-formed command decodes to that command. -/
def Statement (i : Instr) : Prop := i.wellFormed = true → decode (encode i) = .ok i

theorem nop : Statement .nop := by
  intro hw
  refine decode_of_decoder (w := encR 0x00 0 0 0 0 0) (dec := decNop) ?_ ?_ hw
  · rw [opOf_encR] <;> first | rfl | omega
  · simp (disch := omega) [decNop, unused, dOf_encR, aOf_encR, bOf_encR, cOf_encR, immOf_encR]

theorem mov (rd ra : RIdx) : Statement (.mov rd ra) := by
  intro hw
  refine decode_of_decoder (w := encR 0x01 rd ra 0 0 0) (dec := decRR .mov) ?_ ?_ hw
  · rw [opOf_encR] <;> first | rfl | omega
  · simp (disch := omega) [decRR, unused, dOf_encR, aOf_encR, bOf_encR, cOf_encR, immOf_encR]

theorem ldi (rd : RIdx) (imm : Byte) : Statement (.ldi rd imm) := by
  intro hw
  refine decode_of_decoder (w := encR 0x02 rd 0 0 0 imm.toNat) (dec := decLdi) ?_ ?_ hw
  · rw [opOf_encR] <;> first | rfl | omega
  · simp (disch := omega) [decLdi, unused, dOf_encR, aOf_encR, bOf_encR, cOf_encR, immOf_encR]

theorem ldc (rd : RIdx) (c : CurveConst) : Statement (.ldc rd c) := by
  intro hw
  have := c.code_lt
  refine decode_of_decoder (w := encR 0x03 rd 0 0 0 c.code) (dec := decLdc) ?_ ?_ hw
  · rw [opOf_encR] <;> first | rfl | omega
  · simp (disch := omega) [decLdc, unused, dOf_encR, aOf_encR, bOf_encR, cOf_encR, immOf_encR]

theorem ldbe (rd : RIdx) (off : Off) (len : Byte) : Statement (.ldbe rd off len) := by
  intro hw
  refine decode_of_decoder (w := encM 0x04 rd off.toNat len.toNat) (dec := decRM .ldbe) ?_ ?_ hw
  · rw [opOf_encM] <;> first | rfl | omega
  · simp (disch := omega) [decRM, dOf_encM, offMOf_encM, immOf_encM]

theorem stbe (rs : RIdx) (off : Off) (len : Byte) : Statement (.stbe rs off len) := by
  intro hw
  refine decode_of_decoder (w := encM 0x05 rs off.toNat len.toNat) (dec := decRM .stbe) ?_ ?_ hw
  · rw [opOf_encM] <;> first | rfl | omega
  · simp (disch := omega) [decRM, dOf_encM, offMOf_encM, immOf_encM]

theorem pset (ad : AIdx) (rx ry : RIdx) : Statement (.pset ad rx ry) := by
  intro hw
  refine decode_of_decoder (w := encR 0x08 ad rx ry 0 0) (dec := decPset) ?_ ?_ hw
  · rw [opOf_encR] <;> first | rfl | omega
  · simp (disch := omega) [decPset, unused, dOf_encR, aOf_encR, bOf_encR, cOf_encR, immOf_encR]

theorem pgetx (rd : RIdx) (aa : AIdx) : Statement (.pgetx rd aa) := by
  intro hw
  refine decode_of_decoder (w := encR 0x09 rd aa 0 0 0) (dec := decRP .pgetx) ?_ ?_ hw
  · rw [opOf_encR] <;> first | rfl | omega
  · simp (disch := omega) [decRP, unused, dOf_encR, aOf_encR, bOf_encR, cOf_encR, immOf_encR]

theorem pgety (rd : RIdx) (aa : AIdx) : Statement (.pgety rd aa) := by
  intro hw
  refine decode_of_decoder (w := encR 0x0A rd aa 0 0 0) (dec := decRP .pgety) ?_ ?_ hw
  · rw [opOf_encR] <;> first | rfl | omega
  · simp (disch := omega) [decRP, unused, dOf_encR, aOf_encR, bOf_encR, cOf_encR, immOf_encR]

theorem pmov (ad aa : AIdx) : Statement (.pmov ad aa) := by
  intro hw
  refine decode_of_decoder (w := encR 0x0B ad aa 0 0 0) (dec := decPP .pmov) ?_ ?_ hw
  · rw [opOf_encR] <;> first | rfl | omega
  · simp (disch := omega) [decPP, unused, dOf_encR, aOf_encR, bOf_encR, cOf_encR, immOf_encR]

theorem pldg (ad : AIdx) : Statement (.pldg ad) := by
  intro hw
  refine decode_of_decoder (w := encR 0x0C ad 0 0 0 0) (dec := decP .pldg) ?_ ?_ hw
  · rw [opOf_encR] <;> first | rfl | omega
  · simp (disch := omega) [decP, unused, dOf_encR, aOf_encR, bOf_encR, cOf_encR, immOf_encR]

theorem pinf (ad : AIdx) : Statement (.pinf ad) := by
  intro hw
  refine decode_of_decoder (w := encR 0x0D ad 0 0 0 0) (dec := decP .pinf) ?_ ?_ hw
  · rw [opOf_encR] <;> first | rfl | omega
  · simp (disch := omega) [decP, unused, dOf_encR, aOf_encR, bOf_encR, cOf_encR, immOf_encR]

theorem jmov (jd ja : JIdx) : Statement (.jmov jd ja) := by
  intro hw
  refine decode_of_decoder (w := encR 0x0E jd ja 0 0 0) (dec := decPP .jmov) ?_ ?_ hw
  · rw [opOf_encR] <;> first | rfl | omega
  · simp (disch := omega) [decPP, unused, dOf_encR, aOf_encR, bOf_encR, cOf_encR, immOf_encR]

theorem addp (rd ra rb : RIdx) : Statement (.addp rd ra rb) := by
  intro hw
  refine decode_of_decoder (w := encR 0x10 rd ra rb 0 0) (dec := decRRR .addp) ?_ ?_ hw
  · rw [opOf_encR] <;> first | rfl | omega
  · simp (disch := omega) [decRRR, unused, dOf_encR, aOf_encR, bOf_encR, cOf_encR, immOf_encR]

theorem subp (rd ra rb : RIdx) : Statement (.subp rd ra rb) := by
  intro hw
  refine decode_of_decoder (w := encR 0x11 rd ra rb 0 0) (dec := decRRR .subp) ?_ ?_ hw
  · rw [opOf_encR] <;> first | rfl | omega
  · simp (disch := omega) [decRRR, unused, dOf_encR, aOf_encR, bOf_encR, cOf_encR, immOf_encR]

theorem mulp (rd ra rb : RIdx) : Statement (.mulp rd ra rb) := by
  intro hw
  refine decode_of_decoder (w := encR 0x12 rd ra rb 0 0) (dec := decRRR .mulp) ?_ ?_ hw
  · rw [opOf_encR] <;> first | rfl | omega
  · simp (disch := omega) [decRRR, unused, dOf_encR, aOf_encR, bOf_encR, cOf_encR, immOf_encR]

theorem invp (rd ra : RIdx) : Statement (.invp rd ra) := by
  intro hw
  refine decode_of_decoder (w := encR 0x13 rd ra 0 0 0) (dec := decRR .invp) ?_ ?_ hw
  · rw [opOf_encR] <;> first | rfl | omega
  · simp (disch := omega) [decRR, unused, dOf_encR, aOf_encR, bOf_encR, cOf_encR, immOf_encR]

theorem powp (rd ra rb : RIdx) : Statement (.powp rd ra rb) := by
  intro hw
  refine decode_of_decoder (w := encR 0x14 rd ra rb 0 0) (dec := decRRR .powp) ?_ ?_ hw
  · rw [opOf_encR] <;> first | rfl | omega
  · simp (disch := omega) [decRRR, unused, dOf_encR, aOf_encR, bOf_encR, cOf_encR, immOf_encR]

theorem sqrtp (rd ra : RIdx) : Statement (.sqrtp rd ra) := by
  intro hw
  refine decode_of_decoder (w := encR 0x15 rd ra 0 0 0) (dec := decRR .sqrtp) ?_ ?_ hw
  · rw [opOf_encR] <;> first | rfl | omega
  · simp (disch := omega) [decRR, unused, dOf_encR, aOf_encR, bOf_encR, cOf_encR, immOf_encR]

theorem redp (rd ra : RIdx) : Statement (.redp rd ra) := by
  intro hw
  refine decode_of_decoder (w := encR 0x16 rd ra 0 0 0) (dec := decRR .redp) ?_ ?_ hw
  · rw [opOf_encR] <;> first | rfl | omega
  · simp (disch := omega) [decRR, unused, dOf_encR, aOf_encR, bOf_encR, cOf_encR, immOf_encR]

theorem muln (rd ra rb : RIdx) : Statement (.muln rd ra rb) := by
  intro hw
  refine decode_of_decoder (w := encR 0x18 rd ra rb 0 0) (dec := decRRR .muln) ?_ ?_ hw
  · rw [opOf_encR] <;> first | rfl | omega
  · simp (disch := omega) [decRRR, unused, dOf_encR, aOf_encR, bOf_encR, cOf_encR, immOf_encR]

theorem invn (rd ra : RIdx) : Statement (.invn rd ra) := by
  intro hw
  refine decode_of_decoder (w := encR 0x19 rd ra 0 0 0) (dec := decRR .invn) ?_ ?_ hw
  · rw [opOf_encR] <;> first | rfl | omega
  · simp (disch := omega) [decRR, unused, dOf_encR, aOf_encR, bOf_encR, cOf_encR, immOf_encR]

theorem redn (rd ra : RIdx) : Statement (.redn rd ra) := by
  intro hw
  refine decode_of_decoder (w := encR 0x1A rd ra 0 0 0) (dec := decRR .redn) ?_ ?_ hw
  · rw [opOf_encR] <;> first | rfl | omega
  · simp (disch := omega) [decRR, unused, dOf_encR, aOf_encR, bOf_encR, cOf_encR, immOf_encR]

theorem padd (ad aa ab : AIdx) : Statement (.padd ad aa ab) := by
  intro hw
  refine decode_of_decoder (w := encR 0x20 ad aa ab 0 0) (dec := decPPP .padd) ?_ ?_ hw
  · rw [opOf_encR] <;> first | rfl | omega
  · simp (disch := omega) [decPPP, unused, dOf_encR, aOf_encR, bOf_encR, cOf_encR, immOf_encR]

theorem pdbl (ad aa : AIdx) : Statement (.pdbl ad aa) := by
  intro hw
  refine decode_of_decoder (w := encR 0x21 ad aa 0 0 0) (dec := decPP .pdbl) ?_ ?_ hw
  · rw [opOf_encR] <;> first | rfl | omega
  · simp (disch := omega) [decPP, unused, dOf_encR, aOf_encR, bOf_encR, cOf_encR, immOf_encR]

theorem pneg (ad aa : AIdx) : Statement (.pneg ad aa) := by
  intro hw
  refine decode_of_decoder (w := encR 0x22 ad aa 0 0 0) (dec := decPP .pneg) ?_ ?_ hw
  · rw [opOf_encR] <;> first | rfl | omega
  · simp (disch := omega) [decPP, unused, dOf_encR, aOf_encR, bOf_encR, cOf_encR, immOf_encR]

theorem peq (aa ab : AIdx) : Statement (.peq aa ab) := by
  intro hw
  refine decode_of_decoder (w := encR 0x23 0 aa ab 0 0) (dec := decPeq) ?_ ?_ hw
  · rw [opOf_encR] <;> first | rfl | omega
  · simp (disch := omega) [decPeq, unused, dOf_encR, aOf_encR, bOf_encR, cOf_encR, immOf_encR]

theorem pvalid (aa : AIdx) : Statement (.pvalid aa) := by
  intro hw
  refine decode_of_decoder (w := encR 0x24 0 aa 0 0 0) (dec := decPvalid) ?_ ?_ hw
  · rw [opOf_encR] <;> first | rfl | omega
  · simp (disch := omega) [decPvalid, unused, dOf_encR, aOf_encR, bOf_encR, cOf_encR, immOf_encR]

theorem pfromx (ad : AIdx) (rx : RIdx) (odd : Bool) : Statement (.pfromx ad rx odd) := by
  intro hw
  have := odd.toNat_lt
  refine decode_of_decoder (w := encR 0x25 ad rx 0 0 odd.toNat) (dec := decPfromx) ?_ ?_ hw
  · rw [opOf_encR] <;> first | rfl | omega
  · simp (disch := omega) [decPfromx, unused, dOf_encR, aOf_encR, bOf_encR, cOf_encR, immOf_encR]

theorem pdec (ad : AIdx) (off : Off) (len : Byte) : Statement (.pdec ad off len) := by
  intro hw
  refine decode_of_decoder (w := encM 0x26 ad off.toNat len.toNat) (dec := decPM .pdec) ?_ ?_ hw
  · rw [opOf_encM] <;> first | rfl | omega
  · simp (disch := omega) [decPM, dOf_encM, offMOf_encM, immOf_encM]

theorem penc (aa : AIdx) (off : Off) (len : Byte) : Statement (.penc aa off len) := by
  intro hw
  refine decode_of_decoder (w := encM 0x27 aa off.toNat len.toNat) (dec := decPM .penc) ?_ ?_ hw
  · rw [opOf_encM] <;> first | rfl | omega
  · simp (disch := omega) [decPM, dOf_encM, offMOf_encM, immOf_encM]

theorem jfroma (jd : JIdx) (aa : AIdx) : Statement (.jfroma jd aa) := by
  intro hw
  refine decode_of_decoder (w := encR 0x28 jd aa 0 0 0) (dec := decPP .jfroma) ?_ ?_ hw
  · rw [opOf_encR] <;> first | rfl | omega
  · simp (disch := omega) [decPP, unused, dOf_encR, aOf_encR, bOf_encR, cOf_encR, immOf_encR]

theorem jtoa (ad : AIdx) (ja : JIdx) : Statement (.jtoa ad ja) := by
  intro hw
  refine decode_of_decoder (w := encR 0x29 ad ja 0 0 0) (dec := decPP .jtoa) ?_ ?_ hw
  · rw [opOf_encR] <;> first | rfl | omega
  · simp (disch := omega) [decPP, unused, dOf_encR, aOf_encR, bOf_encR, cOf_encR, immOf_encR]

theorem jadd (jd ja jb : JIdx) : Statement (.jadd jd ja jb) := by
  intro hw
  refine decode_of_decoder (w := encR 0x2A jd ja jb 0 0) (dec := decPPP .jadd) ?_ ?_ hw
  · rw [opOf_encR] <;> first | rfl | omega
  · simp (disch := omega) [decPPP, unused, dOf_encR, aOf_encR, bOf_encR, cOf_encR, immOf_encR]

theorem jdbl (jd ja : JIdx) : Statement (.jdbl jd ja) := by
  intro hw
  refine decode_of_decoder (w := encR 0x2B jd ja 0 0 0) (dec := decPP .jdbl) ?_ ?_ hw
  · rw [opOf_encR] <;> first | rfl | omega
  · simp (disch := omega) [decPP, unused, dOf_encR, aOf_encR, bOf_encR, cOf_encR, immOf_encR]

theorem jneg (jd ja : JIdx) : Statement (.jneg jd ja) := by
  intro hw
  refine decode_of_decoder (w := encR 0x2C jd ja 0 0 0) (dec := decPP .jneg) ?_ ?_ hw
  · rw [opOf_encR] <;> first | rfl | omega
  · simp (disch := omega) [decPP, unused, dOf_encR, aOf_encR, bOf_encR, cOf_encR, immOf_encR]

theorem wnaf (rd ra : RIdx) (w : Byte) : Statement (.wnaf rd ra w) := by
  intro hw
  refine decode_of_decoder (w := encR 0x30 rd ra 0 0 w.toNat) (dec := decWnaf) ?_ ?_ hw
  · rw [opOf_encR] <;> first | rfl | omega
  · simp (disch := omega) [decWnaf, unused, dOf_encR, aOf_encR, bOf_encR, cOf_encR, immOf_encR]

theorem glvsplit (rd ra : RIdx) : Statement (.glvsplit rd ra) := by
  intro hw
  refine decode_of_decoder (w := encR 0x31 rd ra 0 0 0) (dec := decRR .glvsplit) ?_ ?_ hw
  · rw [opOf_encR] <;> first | rfl | omega
  · simp (disch := omega) [decRR, unused, dOf_encR, aOf_encR, bOf_encR, cOf_encR, immOf_encR]

theorem pendo (ad aa : AIdx) : Statement (.pendo ad aa) := by
  intro hw
  refine decode_of_decoder (w := encR 0x32 ad aa 0 0 0) (dec := decPP .pendo) ?_ ?_ hw
  · rw [opOf_encR] <;> first | rfl | omega
  · simp (disch := omega) [decPP, unused, dOf_encR, aOf_encR, bOf_encR, cOf_encR, immOf_encR]

theorem pmul (ad : AIdx) (rk : RIdx) (ab : AIdx) (w : Byte) : Statement (.pmul ad rk ab w) := by
  intro hw
  refine decode_of_decoder (w := encR 0x33 ad rk ab 0 w.toNat) (dec := decPmul) ?_ ?_ hw
  · rw [opOf_encR] <;> first | rfl | omega
  · simp (disch := omega) [decPmul, unused, dOf_encR, aOf_encR, bOf_encR, cOf_encR, immOf_encR]

theorem pmuladd (ad : AIdx) (rk1 : RIdx) (ap1 : AIdx) (rk2 : RIdx) (ap2 : AIdx) : Statement (.pmuladd ad rk1 ap1 rk2 ap2) := by
  intro hw
  refine decode_of_decoder (w := encR 0x34 ad rk1 ap1 rk2 ap2) (dec := decPmuladd) ?_ ?_ hw
  · rw [opOf_encR] <;> first | rfl | omega
  · simp (disch := omega) [Nat.mod_eq_of_lt ap2.isLt, decPmuladd, unused, dOf_encR, aOf_encR, bOf_encR, cOf_encR, immOf_encR]

theorem truncn (rd ra : RIdx) (truncOnly : Bool) : Statement (.truncn rd ra truncOnly) := by
  intro hw
  have := truncOnly.toNat_lt
  refine decode_of_decoder (w := encR 0x40 rd ra 0 0 truncOnly.toNat) (dec := decTruncn) ?_ ?_ hw
  · rw [opOf_encR] <;> first | rfl | omega
  · simp (disch := omega) [decTruncn, unused, dOf_encR, aOf_encR, bOf_encR, cOf_encR, immOf_encR]

theorem drbgk (rd rmsg rkey : RIdx) (iter : Byte) : Statement (.drbgk rd rmsg rkey iter) := by
  intro hw
  refine decode_of_decoder (w := encR 0x41 rd rmsg rkey 0 iter.toNat) (dec := decDrbgk) ?_ ?_ hw
  · rw [opOf_encR] <;> first | rfl | omega
  · simp (disch := omega) [decDrbgk, unused, dOf_encR, aOf_encR, bOf_encR, cOf_encR, immOf_encR]

theorem sign (rd rmsg rkey : RIdx) (lowS : Bool) (src : NonceSrc) : Statement (.sign rd rmsg rkey lowS src) := by
  intro hw
  have := signImm_lt lowS src; have := src.cField_lt; have := lowS.toNat_lt; have := src.tag_lt; have := src.cntField_lt
  refine decode_of_decoder (w := encR 0x42 rd rmsg rkey src.cField (lowS.toNat + src.tag * 2 + src.cntField * 2 ^ 3)) (dec := decSign) ?_ ?_ hw
  · rw [opOf_encR] <;> first | rfl | omega
  · have h1 : (lowS.toNat + src.tag * 2 + src.cntField * 2 ^ 3) / 2 % 2 ^ 2 = src.tag := by omega
    have h2 : (lowS.toNat + src.tag * 2 + src.cntField * 2 ^ 3) / 2 ^ 3 = src.cntField := by omega
    have h3 : (lowS.toNat + src.tag * 2 + src.cntField * 2 ^ 3) % 2 = lowS.toNat := by omega
    simp only [decSign]
    rw [dOf_encR, aOf_encR, bOf_encR, cOf_encR, immOf_encR, h1, h2, h3] <;> try omega
    cases lowS <;> simp

theorem verify (rmsg rr rs : RIdx) (aq : AIdx) : Statement (.verify rmsg rr rs aq) := by
  intro hw
  refine decode_of_decoder (w := encR 0x43 aq rmsg rr rs 0) (dec := decVerify) ?_ ?_ hw
  · rw [opOf_encR] <;> first | rfl | omega
  · simp (disch := omega) [decVerify, unused, dOf_encR, aOf_encR, bOf_encR, cOf_encR, immOf_encR]

theorem hinit (alg : HashAlg) : Statement (.hinit alg) := by
  intro hw
  have := alg.code_lt
  refine decode_of_decoder (w := encR 0x50 0 0 0 0 alg.code) (dec := decHinit) ?_ ?_ hw
  · rw [opOf_encR] <;> first | rfl | omega
  · simp (disch := omega) [decHinit, unused, dOf_encR, aOf_encR, bOf_encR, cOf_encR, immOf_encR]

theorem hupdate (off len : BitVec 12) : Statement (.hupdate off len) := by
  intro hw
  refine decode_of_decoder (w := encB 0x51 off.toNat len.toNat) (dec := decHupdate) ?_ ?_ hw
  · rw [opOf_encB] <;> first | rfl | omega
  · simp (disch := omega) [decHupdate, offBOf_encB, lenBOf_encB]

theorem hdigest (off : Off) : Statement (.hdigest off) := by
  intro hw
  refine decode_of_decoder (w := encM 0x52 0 off.toNat 0) (dec := decHdigest) ?_ ?_ hw
  · rw [opOf_encM] <;> first | rfl | omega
  · simp (disch := omega) [decHdigest, unused, dOf_encM, offMOf_encM, immOf_encM]

theorem hdigestH256 (off : Off) : Statement (.hdigestH256 off) := by
  intro hw
  refine decode_of_decoder (w := encM 0x52 1 off.toNat 0) (dec := decHdigest) ?_ ?_ hw
  · rw [opOf_encM] <;> first | rfl | omega
  · simp (disch := omega) [decHdigest, unused, dOf_encM, offMOf_encM, immOf_encM]

theorem hdigestH160 (off : Off) : Statement (.hdigestH160 off) := by
  intro hw
  refine decode_of_decoder (w := encM 0x52 2 off.toNat 0) (dec := decHdigest) ?_ ?_ hw
  · rw [opOf_encM] <;> first | rfl | omega
  · simp (disch := omega) [decHdigest, unused, dOf_encM, offMOf_encM, immOf_encM]

theorem hmacinit (alg : HashAlg) (off : Off) (len : Byte) : Statement (.hmacinit alg off len) := by
  intro hw
  have := alg.code_lt
  refine decode_of_decoder (w := encM 0x53 alg.code off.toNat len.toNat) (dec := decHmacinit) ?_ ?_ hw
  · rw [opOf_encM] <;> first | rfl | omega
  · simp (disch := omega) [decHmacinit, dOf_encM, offMOf_encM, immOf_encM]

theorem hmacfinal (off : Off) : Statement (.hmacfinal off) := by
  intro hw
  refine decode_of_decoder (w := encM 0x54 0 off.toNat 0) (dec := decHmacfinal) ?_ ?_ hw
  · rw [opOf_encM] <;> first | rfl | omega
  · simp (disch := omega) [decHmacfinal, unused, dOf_encM, offMOf_encM, immOf_encM]

end Sys2Proof.Laws.RoundTrip
end

