-- ==== Sys2Proof/Laws/Window.lean ====
section
/-! SUPPORT. The laws of the window word helpers (20_memory.md R42): what the byte lanes of a word hold. -/
namespace Sys2Proof.Machine

/-- Every bit of four bytes laid in a word: bit `8b + i` is bit `i` of byte `b`. -/
theorem laneWord_getLsbD (b0 b1 b2 b3 : Byte) (i : Nat) :
    (laneWord b0 b1 b2 b3).getLsbD i =
      if i < 8 then b0.getLsbD i else if i < 16 then b1.getLsbD (i - 8)
      else if i < 24 then b2.getLsbD (i - 16) else b3.getLsbD (i - 24) := by
  change @BitVec.getLsbD (8 + 8 + 8 + 8) (b3 ++ b2 ++ b1 ++ b0) i = _
  simp only [BitVec.getLsbD_append]
  split_ifs <;> first | rfl | (exfalso; omega)

/-- Byte `b` of four bytes laid in a word is the `b`-th of them. -/
theorem laneWord_byte (bytes : Fin 4 → Byte) (b : Fin 4) :
    (laneWord (bytes 0) (bytes 1) (bytes 2) (bytes 3)).extractLsb' (8 * b.val) 8 = bytes b := by
  refine BitVec.eq_of_getLsbD_eq fun i hi => ?_
  rw [BitVec.getLsbD_extractLsb', laneWord_getLsbD]
  fin_cases b <;> simp [hi] <;> split_ifs <;> first | rfl | (exfalso; omega) | omega

/-- The lanes of a word, laid in a word again, are the word. -/
theorem laneWord_laneByte (w : Word32) : laneWord (laneByte w 0) (laneByte w 1) (laneByte w 2) (laneByte w 3) = w := by
  refine BitVec.eq_of_getLsbD_eq fun i hi => ?_
  rw [laneWord_getLsbD]
  simp only [laneByte, BitVec.getLsbD_extractLsb']
  have lane (b k : Nat) (h : k < 8) (hk : 8 * b + k = i) : (decide (k < 8) && w.getLsbD (8 * b + k)) = w.getLsbD i := by
    rw [hk, decide_eq_true h, Bool.true_and]
  split_ifs
  · exact lane 0 i (by omega) (by omega)
  · exact lane 1 (i - 8) (by omega) (by omega)
  · exact lane 2 (i - 16) (by omega) (by omega)
  · exact lane 3 (i - 24) (by omega) (by omega)

end Sys2Proof.Machine
end

