-- ==== Sys2Proof/Tests/Slice0.lean ====
section
/-! SUPPORT. The model's own tests. Expected values come from spec/95_test_vectors.md (sections named beside each group), the
words from the encoding tables of 30_encoding.md. After the tests, one witness for the hypotheses of each statement. -/
namespace Sys2Proof.Tests

open Sys2Proof Sys2Proof.Machine

set_option Elab.async false

/-! ## Helpers -/

/-- What a function sees of the next state, if there is one. -/
def peek {α : Type} (o : Host.Outcome State Fault Refusal) (f : State → α) : Option α :=
  match o with
  | .next t => some (f t)
  | .fault _ => none
  | .refused _ => none

/-- The reset state with some integer registers written. -/
def regs (l : List (RIdx × Nat)) : State := l.foldl (fun s e => s.setNatR e.1 e.2) State.reset

/-- A finite point register. -/
def pt (x y : Nat) : APoint := { x := BitVec.ofNat 256 x, y := BitVec.ofNat 256 y, inf := false }

/-- The register of infinity. -/
def ptInf : APoint := { x := 0, y := 0, inf := true }

/-- A Jacobian register. -/
def jp (x y z : Nat) : JPoint := { X := BitVec.ofNat 256 x, Y := BitVec.ofNat 256 y, Z := BitVec.ofNat 256 z }

/-- Write some affine registers. -/
def withA (s : State) (l : List (AIdx × APoint)) : State := l.foldl (fun s e => s.setA e.1 e.2) s

/-- Write some Jacobian registers. -/
def withJ (s : State) (l : List (JIdx × JPoint)) : State := l.foldl (fun s e => s.setJ e.1 e.2) s

/-- Write bytes to DBUF. -/
def withBytes (s : State) (off : Nat) (bs : List Byte) : State := s.memWrite off bs

/-- The state some earlier command words lead to. -/
def after (ws : List Word32) (s : State) : State :=
  ws.foldl (fun s w => match issue w s with
    | .next t => t
    | .fault _ => s
    | .refused _ => s) s

/-- `ERR` and `ERRCODE`. -/
def fault (s : State) : Bool × Nat := (s.err, s.errcode.toNat)

/-- The multiples of the generator in section 1.3, as registers. -/
def g1 : APoint := pt Config.gx Config.gy
def g2 : APoint := pt 0xC6047F9441ED7D6D3045406E95C07CD85C778E4B8CEF3CA7ABAC09B95C709EE5 0x1AE168FEA63DC339A3C58419466CEAEEF7F632653266D0E1236431A950CFE52A
def g3 : APoint := pt 0xF9308A019258C31049344F85F89D5229B531C845836F99B08601F113BCE036F9 0x388F7B0F632DE8140FE337E62A37F3566500A99934C2231B6CB9FD7584B8E672
def g5 : APoint := pt 0x2F8BDE4D1A07209355B4A7250A5C5128E88B84BDDC619AB7CBA8D569B240EFE4 0xD8AC222636E5E3D6D4DBA9DDA6C9C426F788271BAB0D6840DCA87D3AA6AC62D6
def g7 : APoint := pt 0x5CBDF0646E5DB4EAA398F365F2EA7A0E3D419B7E0330E39CE92BDDEDCAC4F9BC 0x6AEBCA40BA255960A3178D6D861A54DBA813D0B813FDE7B5A5082628087264DA
def gNeg : APoint := pt Config.gx 0xB7C52588D95C3B9AA25B0403F1EEF75702E84BB7597AABE663B82F6F04EF2777

/-! ## WellFormed: each check refuses an ill-formed command -/

theorem test_wf_intLen : (Instr.ldbe 1 0 33).wellFormed = false ∧ (Instr.stbe 1 0 33).wellFormed = false ∧
    (Instr.ldbe 1 0 32).wellFormed = true := by decide
theorem test_wf_pair : (Instr.redp 1 15).wellFormed = false ∧ (Instr.redn 1 15).wellFormed = false ∧
    (Instr.truncn 1 15 true).wellFormed = false ∧ (Instr.glvsplit 15 1).wellFormed = false ∧
    (Instr.sign 15 1 2 true .drbg).wellFormed = false ∧ (Instr.redp 1 14).wellFormed = true := by decide
theorem test_wf_pencLen : (Instr.penc 1 0 32).wellFormed = false ∧ (Instr.penc 1 0 65).wellFormed = true := by decide
theorem test_wf_window : (Instr.wnaf 2 1 1).wellFormed = false ∧ (Instr.wnaf 2 1 9).wellFormed = false ∧
    (Instr.pmul 2 1 1 9).wellFormed = false ∧ (Instr.pmul 2 1 1 8).wellFormed = true := by decide
theorem test_wf_nonce : (Instr.sign 4 1 2 true (.table 0)).wellFormed = false ∧
    (Instr.sign 4 1 2 true (.table 17)).wellFormed = false ∧ (Instr.sign 4 1 2 true (.table 16)).wellFormed = true := by decide

/-! ## Decode: every constructor from a word written out from the tables of R56 to R61 -/

/-- Every listed word decodes to its command. -/
def allDecode (l : List (Word32 × Instr)) : Bool := l.all fun e => decide (decode e.1 = .ok e.2)

/-- Every listed word is illegal. -/
def allIllegal (l : List Word32) : Bool := l.all fun w => match decode w with
  | .ok _ => false
  | .error _ => true

theorem test_decode_moves : allDecode
    [(0x00000000, .nop), (0x01210000, .mov 2 1), (0x025000FF, .ldi 5 255), (0x03100007, .ldc 1 .halfN),
     (0x0411E020, .ldbe 1 480 32), (0x05106405, .stbe 1 100 5), (0x08312000, .pset 3 1 2), (0x09F70000, .pgetx 15 7),
     (0x0AF70000, .pgety 15 7), (0x0B100000, .pmov 1 0), (0x0C700000, .pldg 7), (0x0D700000, .pinf 7),
     (0x0E710000, .jmov 7 1)] = true := by decide +kernel
theorem test_decode_constants : allDecode
    [(0x03100000, .ldc 1 .p), (0x03100001, .ldc 1 .n), (0x03100002, .ldc 1 .gx), (0x03100003, .ldc 1 .gy),
     (0x03100004, .ldc 1 .beta), (0x03100005, .ldc 1 .lambda), (0x03100006, .ldc 1 .sqrtExp)] = true := by decide +kernel
theorem test_decode_field : allDecode
    [(0x10312000, .addp 3 1 2), (0x11312000, .subp 3 1 2), (0x12312000, .mulp 3 1 2), (0x13310000, .invp 3 1),
     (0x14312000, .powp 3 1 2), (0x15310000, .sqrtp 3 1), (0x163E0000, .redp 3 14), (0x18312000, .muln 3 1 2),
     (0x19310000, .invn 3 1), (0x1A340000, .redn 3 4)] = true := by decide +kernel
theorem test_decode_points : allDecode
    [(0x20712000, .padd 7 1 2), (0x21210000, .pdbl 2 1), (0x22210000, .pneg 2 1), (0x23012000, .peq 1 2),
     (0x24010000, .pvalid 1), (0x25110001, .pfromx 1 1 true), (0x2611BF41, .pdec 1 447 65), (0x2711E021, .penc 1 480 33),
     (0x28110000, .jfroma 1 1), (0x29130000, .jtoa 1 3), (0x2A321000, .jadd 3 2 1), (0x2B210000, .jdbl 2 1),
     (0x2C210000, .jneg 2 1)] = true := by decide +kernel
theorem test_decode_scalar : allDecode
    [(0x30210002, .wnaf 2 1 2), (0x31210000, .glvsplit 2 1), (0x32210000, .pendo 2 1), (0x33211008, .pmul 2 1 1 8),
     (0x34123407, .pmuladd 1 2 3 4 7)] = true := by decide +kernel
theorem test_decode_ecdsa : allDecode
    [(0x40340001, .truncn 3 4 true), (0x41312002, .drbgk 3 1 2 2), (0x42412102, .sign 4 1 2 false (.fixed 1)),
     (0x42412001, .sign 4 1 2 true .drbg), (0x42412014, .sign 4 1 2 false (.table 2)),
     (0x43012300, .verify 1 2 3 0)] = true := by decide +kernel
theorem test_decode_hash : allDecode
    [(0x50000003, .hinit .sha1), (0x51000200, .hupdate 0 512), (0x51200200, .hupdate 512 512), (0x5201C100, .hdigest 449),
     (0x52102000, .hdigestH256 32), (0x5221ED00, .hdigestH160 493), (0x53100081, .hmacinit .sha512 0 129),
     (0x5331FE03, .hmacinit .sha1 510 3), (0x53200004, .hmacinit .rmd160 0 4), (0x54004000, .hmacfinal 64)] = true := by
  decide +kernel

/-- Section 2.1 and R63: the illegal words. -/
theorem test_decode_illegal : allIllegal
    [0x00000001, 0x12312100, 0x12312001, 0x06000000, 0x17000000, 0xFF000000, 0x20812000, 0x163F0000, 0x30210001, 0x30210009,
     0x04100021, 0x27000020, 0x03100008, 0x50000004, 0x52300000, 0x52000001, 0x54100000, 0x42412006, 0x42412100, 0x42412004,
     0x4241208C, 0x42F12000, 0x25310002, 0x34123408, 0x43812300, 0x31F10000] = true := by decide +kernel
theorem test_decode_host_row : decodeTableWord 32 0x12312000 = some (.mulp 3 1 2) ∧ decodeTableWord 32 0x17000000 = none := by
  decide +kernel
/-- No two opcodes of the map are the same (R59). -/
theorem test_opcodes_distinct : (decoders.map Prod.fst).Nodup ∧ decoders.length = 50 := by decide +kernel

/-! ## Moves (section 2.2) -/

theorem test_nop : peek (issue 0x00000000 (regs [(1, 5)])) id = some (regs [(1, 5)]) := by decide +kernel
theorem test_mov : peek (issue 0x01210000 (regs [(1, 2 ^ 256 - 1)])) (fun t => (t.natR 2, t.err)) = some (2 ^ 256 - 1, false) := by
  decide +kernel
theorem test_ldi : peek (issue 0x025000FF State.reset) (fun t => t.natR 5) = some 255 := by decide +kernel
theorem test_ldc : (List.range 8).map (fun k => peek (issue (0x03100000 + BitVec.ofNat 32 k) State.reset) fun t => t.natR 1) =
    [some 0xFFFFFFFFFFFFFFFFFFFFFFFFFFFFFFFFFFFFFFFFFFFFFFFFFFFFFFFEFFFFFC2F,
     some 0xFFFFFFFFFFFFFFFFFFFFFFFFFFFFFFFEBAAEDCE6AF48A03BBFD25E8CD0364141,
     some 0x79BE667EF9DCBBAC55A06295CE870B07029BFCDB2DCE28D959F2815B16F81798,
     some 0x483ADA7726A3C4655DA4FBFC0E1108A8FD17B448A68554199C47D08FFB10D4B8,
     some 0x7AE96A2B657C07106E64479EAC3434E99CF0497512F58995C1396C28719501EE,
     some 0x5363AD4CC05C30E0A5261C028812645A122E22EA20816678DF02967C1B23BD72,
     some 0x3FFFFFFFFFFFFFFFFFFFFFFFFFFFFFFFFFFFFFFFFFFFFFFFFFFFFFFFBFFFFF0C,
     some 0x7FFFFFFFFFFFFFFFFFFFFFFFFFFFFFFF5D576E7357A4501DDFE92F46681B20A0] := by decide +kernel
theorem test_ldbe : peek (issue 0x04100804 (withBytes State.reset 8 [0xDE, 0xAD, 0xBE, 0xEF])) (fun t => t.natR 1) =
    some 0xDEADBEEF := by decide +kernel
theorem test_ldbe_range : peek (issue 0x0411FE04 (regs [(1, 9)])) (fun t => (fault t, t.natR 1)) = some ((true, 2), 9) := by
  decide +kernel
theorem test_stbe : peek (issue 0x05106408 (regs [(1, 0x0102030405)])) (fun t => t.memRead 99 10) =
    some [0, 0, 0, 0, 1, 2, 3, 4, 5, 0] := by decide +kernel
theorem test_stbe_range : peek (issue 0x05106404 (regs [(1, 0x0102030405)])) (fun t => (fault t, t.dbuf)) =
    some ((true, 3), []) := by decide +kernel
theorem test_pset : peek (issue 0x08312000 (regs [(1, 1), (2, 1)])) (fun t => t.getA 3) = some (pt 1 1) := by decide +kernel
theorem test_pset_range : peek (issue 0x08312000 (regs [(1, 1), (2, Config.p)])) (fun t => (fault t, t.getA 3)) =
    some ((true, 3), pt 0 0) := by decide +kernel
theorem test_pgetx : peek (issue 0x09100000 (withA State.reset [(0, g1)])) (fun t => t.natR 1) = some Config.gx := by
  decide +kernel
theorem test_pgetx_infinity : peek (issue 0x09100000 (withA State.reset [(0, ptInf)])) fault = some (true, 5) := by decide +kernel
theorem test_pgety : peek (issue 0x0A100000 (withA State.reset [(0, g1)])) (fun t => t.natR 1) = some Config.gy := by
  decide +kernel
theorem test_pmov : peek (issue 0x0B100000 (withA State.reset [(0, { x := 5, y := 6, inf := true })])) (fun t => t.getA 1) =
    some { x := 5, y := 6, inf := true } := by decide +kernel
theorem test_pldg : peek (issue 0x0C700000 State.reset) (fun t => t.getA 7) = some g1 := by decide +kernel
theorem test_pinf : peek (issue 0x0D700000 (withA State.reset [(7, g1)])) (fun t => t.getA 7) = some ptInf := by decide +kernel
theorem test_jmov : peek (issue 0x0E710000 (withJ State.reset [(1, jp Config.p (2 ^ 256 - 1) 3)])) (fun t => t.getJ 7) =
    some (jp Config.p (2 ^ 256 - 1) 3) := by decide +kernel

/-! ## Field and order arithmetic (section 2.3) -/

theorem test_addp : peek (issue 0x10312000 (regs [(1, Config.p - 1), (2, 1), (3, 9)])) (fun t => t.natR 3) = some 0 := by
  decide +kernel
theorem test_addp_range : peek (issue 0x10312000 (regs [(1, 0), (2, Config.p), (3, 9)])) (fun t => (fault t, t.natR 3)) =
    some ((true, 3), 9) := by decide +kernel
theorem test_subp : peek (issue 0x11312000 (regs [(1, 0), (2, 1)])) (fun t => t.natR 3) =
    some 0xFFFFFFFFFFFFFFFFFFFFFFFFFFFFFFFFFFFFFFFFFFFFFFFFFFFFFFFEFFFFFC2E := by decide +kernel
theorem test_subp_wrap : peek (issue 0x11312000 (regs [(1, 1), (2, Config.p - 1)])) (fun t => t.natR 3) = some 2 := by
  decide +kernel
theorem test_mulp : peek (issue 0x12312000 (regs [(1, Config.gx), (2, Config.gy)])) (fun t => t.natR 3) =
    some 0xFD3DC529C6EB60FB9D166034CF3C1A5A72324AA9DFD3428A56D7E1CE0179FD9B := by decide +kernel
theorem test_mulp_range : peek (issue 0x12312000 (regs [(1, 2 ^ 256 - 1), (2, 1)])) fault = some (true, 3) := by decide +kernel
theorem test_invp : peek (issue 0x13310000 (regs [(1, 0xF)])) (fun t => t.natR 3) =
    some 0x88888888888888888888888888888888888888888888888888888887FFFFFDF7 := by decide +kernel
theorem test_invp_zero : peek (issue 0x13310000 (regs [(3, 0xDEAD)])) (fun t => (t.statusWord, t.errcmd, t.natR 3)) =
    some (0x00000401, 0x13310000, 0xDEAD) := by decide +kernel
theorem test_powp : peek (issue 0x14312000 (regs [(1, 7), (2, 2 ^ 256 - 1)])) (fun t => t.natR 3) =
    some 0xE68BD7B35DA8A6B618C982226B4FD7203604DAD5E88ADCA16F02ED0AAF9F61B1 := by decide +kernel
theorem test_powp_zero : peek (issue 0x14312000 State.reset) (fun t => t.natR 3) = some 1 := by decide +kernel
theorem test_sqrtp : peek (issue 0x15310000 (regs [(1, 2)])) (fun t => (t.natR 3, t.flags.t)) =
    some (0x210C790573632359B1EDB4302C117D8A132654692C3FEEB7DE3A86AC3F3B53F7, true) := by decide +kernel
theorem test_sqrtp_none : peek (issue 0x15310000 ((regs [(1, 3), (3, 9)]).setT true)) (fun t => (t.natR 3, t.flags.t, t.err)) =
    some (9, false, false) := by decide +kernel
theorem test_redp : peek (issue 0x16340000 (regs [(4, 2 ^ 256 - 1), (5, 2 ^ 256 - 1)])) (fun t => t.natR 3) =
    some 0x000000000000000000000000000000000000000000000001000007A2000E90A0 := by decide +kernel
theorem test_redp_high : peek (issue 0x16340000 (regs [(5, 1)])) (fun t => t.natR 3) = some 0x1000003D1 := by decide +kernel
theorem test_muln : peek (issue 0x18312000 (regs [(1, Config.gx), (2, Config.gy)])) (fun t => t.natR 3) =
    some 0x805714A252D0C0B58910907E85B5B801FFF610A36BDF46847A4BF5D9AE2D10ED := by decide +kernel
theorem test_muln_range : peek (issue 0x18312000 (regs [(1, Config.p - 1), (2, 1)])) fault = some (true, 3) := by decide +kernel
theorem test_invn : peek (issue 0x19310000 (regs [(1, 2)])) (fun t => t.natR 3) =
    some 0x7FFFFFFFFFFFFFFFFFFFFFFFFFFFFFFF5D576E7357A4501DDFE92F46681B20A1 := by decide +kernel
theorem test_invn_range : peek (issue 0x19310000 (regs [(1, Config.n)])) fault = some (true, 3) := by decide +kernel
theorem test_redn : peek (issue 0x1A340000 (regs [(4, 2 ^ 256 - 1), (5, 2 ^ 256 - 1)])) (fun t => t.natR 3) =
    some 0x9D671CD581C69BC5E697F5E45BCD07C6741496C20E7CF878896CF21467D7D13F := by decide +kernel

/-! ## Points (section 2.4) -/

theorem test_padd : peek (issue 0x20312000 (withA State.reset [(1, g2), (2, g3)])) (fun t => t.getA 3) = some g5 := by
  decide +kernel
theorem test_padd_first_operand : peek (issue 0x20312000 (withA State.reset [(1, pt 1 1), (2, pt Config.p 1)])) fault =
    some (true, 6) := by decide +kernel
theorem test_pdbl : peek (issue 0x21210000 (withA State.reset [(1, g1)])) (fun t => t.getA 2) = some g2 := by decide +kernel
theorem test_pneg : peek (issue 0x22210000 (withA State.reset [(1, g1)])) (fun t => t.getA 2) = some gNeg := by decide +kernel
theorem test_pneg_infinity : peek (issue 0x22210000 (withA State.reset [(1, ptInf)])) (fun t => t.getA 2) = some ptInf := by
  decide +kernel
theorem test_peq : peek (issue 0x23012000 (withA State.reset [(1, g1), (2, gNeg)])) (fun t => t.flags.t) = some false := by
  decide +kernel
theorem test_peq_infinity : peek (issue 0x23012000 (withA State.reset [(1, ptInf), (2, { x := 7, y := 9, inf := true })]))
    (fun t => t.flags.t) = some true := by decide +kernel
theorem test_pvalid : peek (issue 0x24010000 (withA State.reset [(1, g1)])) (fun t => t.flags.t) = some true := by decide +kernel
theorem test_pvalid_range : peek (issue 0x24010000 (withA State.reset [(1, pt Config.p 1)])) (fun t => (t.flags.t, t.err)) =
    some (false, false) := by decide +kernel
theorem test_pfromx : peek (issue 0x25110001 (regs [(1, 1)])) (fun t => t.getA 1) =
    some (pt 1 0xBDE70DF51939B94C9C24979FA7DD04EBD9B3572DA7802290438AF2A681895441) := by decide +kernel
theorem test_pfromx_none : peek (issue 0x25110000 (regs [(1, 5)])) fault = some (true, 6) := by decide +kernel
theorem test_pdec : peek (issue 0x26100021 (withBytes State.reset 0 (0x03 :: tobe Config.gx 32))) (fun t => t.getA 1) =
    some gNeg := by decide +kernel
theorem test_pdec_hybrid : peek (issue 0x26100041 (withBytes State.reset 0 (0x07 :: tobe Config.gx 32 ++ tobe Config.gy 32)))
    fault = some (true, 7) := by decide +kernel
theorem test_penc : peek (issue 0x27100021 (withA State.reset [(1, gNeg)])) (fun t => be (t.memRead 0 34)) =
    some 0x0379BE667EF9DCBBAC55A06295CE870B07029BFCDB2DCE28D959F2815B16F8179800 := by decide +kernel
theorem test_penc_order : peek (issue 0x2711E021 (withA State.reset [(1, ptInf)])) fault = some (true, 2) := by decide +kernel

/-! ## Jacobian commands (section 2.5) -/

theorem test_jfroma : peek (issue 0x28110000 (withA State.reset [(1, pt 1 1)])) (fun t => t.getJ 1) = some (jp 1 1 1) := by
  decide +kernel
theorem test_jtoa : peek (issue 0x29110000 (withJ State.reset [(1, jp 4 8 2)])) (fun t => t.getA 1) = some (pt 1 1) := by
  decide +kernel
theorem test_jdbl : peek (issue 0x2B210000 (withJ State.reset [(1, jp Config.gx Config.gy 1)])) (fun t => t.getJ 2) =
    some (jp 0x7D152C041EA8E1DC2191843D1FA9DB55B68F88FEF695E2C791D40444B365AFC2
      0x56915849F52CC8F76F5FD7E4BF60DB4A43BF633E1B1383F85FE89164BFADCBDB
      0x9075B4EE4D4788CABB49F7F81C221151FA2F68914D0AA833388FA11FF621A970) := by decide +kernel
theorem test_jadd : peek (issue 0x2A321000 (withJ State.reset [(1, jp Config.gx Config.gy 1),
    (2, jp 0x7D152C041EA8E1DC2191843D1FA9DB55B68F88FEF695E2C791D40444B365AFC2
      0x56915849F52CC8F76F5FD7E4BF60DB4A43BF633E1B1383F85FE89164BFADCBDB
      0x9075B4EE4D4788CABB49F7F81C221151FA2F68914D0AA833388FA11FF621A970)])) (fun t => t.getJ 3) =
    some (jp 0x0CA90EF9B06D7EB51D650E9145E3083CBD8DF8759168862036F97A358F089848
      0xBCA50189FE8472AA2FB007567229F4D458149078094D7E7D35BB6C27E9A22B08
      0x6DBD0563F460DC5C401595F1492430343B7AC0165DA116B7EFA23994D564A085) := by decide +kernel
theorem test_jadd_infinity : peek (issue 0x2A312000 (withJ State.reset [(1, jp 5 6 0), (2, jp Config.gx Config.gy 1)]))
    (fun t => t.getJ 3) = some (jp Config.gx Config.gy 1) := by decide +kernel
theorem test_jneg : peek (issue 0x2C210000 (withJ State.reset [(1, jp 5 6 0)])) (fun t => t.getJ 2) = some (jp 0 1 0) := by
  decide +kernel
theorem test_jtoa_range : peek (issue 0x29110000 (withJ State.reset [(1, jp Config.p 1 1)])) fault = some (true, 3) := by
  decide +kernel

/-! ## Recoding and scalar multiplication (section 2.6) -/

theorem test_wnaf : peek (issue 0x30210002 (regs [(1, 0x1234)])) (fun t => (t.natR 2, t.memRead 0 13)) =
    some (13, [0, 0, 1, 0, 0xFF, 0, 1, 0, 0, 1, 0, 0, 1]) := by decide +kernel
theorem test_wnaf_five : peek (issue 0x30210005 (regs [(1, 0x11)])) (fun t => (t.natR 2, t.memRead 0 6)) =
    some (6, [0xF1, 0, 0, 0, 0, 1]) := by decide +kernel
theorem test_glvsplit : peek (issue 0x31210000 (regs [(1, Config.halfN)])) (fun t => (t.natR 2, t.natR 3, t.flagsWord)) =
    some (0xA2A8918CA85BAFE22016D0B917E4DD76, 0x59DE565A2C9D0E2D4373F7623C1D7CD7, 0x00000004) := by decide +kernel
theorem test_glvsplit_negative : peek (issue 0x31210000 (regs [(1, Config.n - 1)])) (fun t => (t.natR 2, t.natR 3, t.flagsWord)) =
    some (1, 0, 0x00000002) := by decide +kernel
theorem test_pendo : peek (issue 0x32210000 (withA State.reset [(1, g1)])) (fun t => t.getA 2) =
    some (pt 0xBCACE2E99DA01887AB0102B696902325872844067F15E98DA7BBA04400B88FCB Config.gy) := by decide +kernel
theorem test_pmul : peek (issue 0x33211002 (withA (regs [(1, 7)]) [(1, g1)])) (fun t => t.getA 2) = some g7 := by decide +kernel
theorem test_pmul_invalid : peek (issue 0x33211005 (regs [(1, 7)])) fault = some (true, 6) := by decide +kernel
theorem test_pmuladd : peek (issue 0x34311202 (withA (regs [(1, 2), (2, 1)]) [(1, g1), (2, g3)])) (fun t => t.getA 3) =
    some g5 := by decide +kernel
theorem test_pmuladd_checks : peek (issue 0x34311202 (withA (regs [(1, 2)]) [(1, g1), (2, pt 1 1)])) fault = some (true, 6) := by
  decide +kernel

/-- The reference procedures that are no commands (R142, R144) give the multiples of section 1.3. -/
theorem test_reference_procedures : smulWnaf 7 g1.toPt 3 = g7.toPt ∧ muladdRef 2 g1.toPt 1 g3.toPt = g5.toPt ∧
    muladdRef 5 g1.toPt (Config.n - 5) g1.toPt = .inf := by decide +kernel

/-! ## ECDSA (section 2.7) -/

theorem test_truncn : peek (issue 0x40340000 (regs [(4, Config.gx), (5, 0xAB)])) (fun t => t.natR 3) =
    some 0xAB79BE667EF9DCBBAC55A06295CE870B07029BFCDB2DCE28D959F2815B16F817 := by decide +kernel
theorem test_truncn_reduce : peek (issue 0x40340000 (regs [(4, 2 ^ 256 - 1)])) (fun t => t.natR 3) =
    some 0x14551231950B75FC4402DA1732FC9BEBE := by decide +kernel
theorem test_drbgk : peek (issue 0x41312001
    (regs [(1, 0xA0DC65FFCA799873CBEA0AC274015B9526505DAAAED385155425F7337704883E), (2, 1)])) (fun t => t.natR 3) =
    some 0xF15FB763A6BCBBACBDE0A6A9AE2A02482BD92F3E75A50B357BD551DDD771045E := by decide +kernel
theorem test_sign_fixed : peek (issue 0x42412302
    (regs [(1, 0xA0DC65FFCA799873CBEA0AC274015B9526505DAAAED385155425F7337704883E), (2, 1), (3, 2)]))
    (fun t => (t.natR 4, t.natR 5)) = some (0xC6047F9441ED7D6D3045406E95C07CD85C778E4B8CEF3CA7ABAC09B95C709EE5,
      0x337072CA06338AF07E17A59884E0EC37640C8787C63D10C09FFFD130019F72F1) := by decide +kernel
theorem test_sign_table : peek (issue 0x42412014 (withBytes
    (regs [(1, 0xA0DC65FFCA799873CBEA0AC274015B9526505DAAAED385155425F7337704883E), (2, 1), (4, 9)]) 0
    (tobe 0 32 ++ tobe (Config.n - 1) 32 ++ tobe 2 32))) (fun t => (fault t, t.natR 4)) = some ((true, 12), 9) := by
  decide +kernel
theorem test_verify : peek (issue 0x43012300 (withA
    (regs [(1, 0xA0DC65FFCA799873CBEA0AC274015B9526505DAAAED385155425F7337704883E),
      (2, 0x934B1EA10A4B3C1757E2B0C017D0B6143CE3C9A7E6A4A49860D7A6AB210EE3D8),
      (3, 0x2442CE9D2B916064108014783E923EC36B49743E2FFA1C4496F01A512AAFD9E5)]) [(0, g1)])) (fun t => t.flags.t) = some true := by
  decide +kernel
theorem test_verify_key_first : peek (issue 0x43012300 (withA State.reset [(0, ptInf)])) fault = some (true, 5) := by
  decide +kernel

/-! ## Hash and HMAC (sections 1.1, 1.2, 1.9, 2.8) -/

/-- The bytes of "abc". -/
def abc : List Byte := [0x61, 0x62, 0x63]

theorem test_hinit : peek (issue 0x50000003 State.reset) (fun t => t.statusWord) = some 0x000D0000 := by decide +kernel
theorem test_hupdate : peek (issue 0x51000003 (after [0x50000000] (withBytes State.reset 0 abc)))
    (fun t => (t.hctlWord, t.hc.hlen, t.hc.h[0])) = some (0x00000301, 3, 0x6A09E667) := by decide +kernel
theorem test_hupdate_idle : peek (issue 0x51000003 State.reset) fault = some (true, 13) := by decide +kernel
theorem test_hdigest : peek (issue 0x52002000 (after [0x50000000, 0x51000003] (withBytes State.reset 0 abc)))
    (fun t => (be (t.memRead 32 32), t.statusWord)) =
    some (0xBA7816BF8F01CFEA414140DE5DAE2223B00361A396177A9CB410FF61F20015AD, 0) := by decide +kernel
theorem test_hdigest_range : peek (issue 0x5201C100 (after [0x50000001] State.reset)) (fun t => t.statusWord) =
    some 0x00050201 := by decide +kernel
theorem test_hdigestH256 : peek (issue 0x52102000 (after [0x50000000, 0x51000003] (withBytes State.reset 0 abc)))
    (fun t => be (t.memRead 32 32)) = some 0x4F8B42C22DD3729B519BA6F68D2DA7CC5B2D606D05DAED5AD5128CC03E6C6358 := by
  decide +kernel
theorem test_hdigestH160 : peek (issue 0x52204000 (after [0x50000000, 0x51000003] (withBytes State.reset 0 abc)))
    (fun t => be (t.memRead 64 20)) = some 0xBB1BE98C142444D7A56AA3981C3942A978E4DC33 := by decide +kernel
theorem test_hmacinit : peek (issue 0x53000004 (withBytes State.reset 0 [0x4A, 0x65, 0x66, 0x65]))
    (fun t => (t.statusWord, t.hc.hlen, t.hkey.toList.take 5)) = some (0x00030000, 64, [0x4A, 0x65, 0x66, 0x65, 0]) := by
  decide +kernel
theorem test_hmacfinal : peek (issue 0x54004000 (after [0x53000004, 0x5101001C]
    (withBytes (withBytes State.reset 0 [0x4A, 0x65, 0x66, 0x65]) 16
      [0x77, 0x68, 0x61, 0x74, 0x20, 0x64, 0x6F, 0x20, 0x79, 0x61, 0x20, 0x77, 0x61, 0x6E, 0x74, 0x20, 0x66, 0x6F, 0x72, 0x20,
       0x6E, 0x6F, 0x74, 0x68, 0x69, 0x6E, 0x67, 0x3F]))) (fun t => be (t.memRead 64 32)) =
    some 0x5BDCC146BF60754E6A042426089575C75A003F089D2739839DEC58B964EC3843 := by decide +kernel

/-! ## The step, the window and the fault mechanism (sections 2.9, 2.10) -/

/-- One host event on a state. -/
def host (e : HostEvent) (s : State) : Host.Outcome State Fault Refusal := step { s with hostIn := [e] }

theorem test_step_idle : peek (step State.reset) id = some State.reset := by decide +kernel
theorem test_step_issues : peek (step (State.reset.withFetchWord 32 0x025000FF)) (fun t => (t.natR 5, t.hostIn)) =
    some (255, []) := by decide +kernel
theorem test_core_reset : core.reset = State.reset := rfl
theorem test_window_register : peek (host (.write 0x13C 0x79BE667E) State.reset) (fun t => t.natR 1 / 2 ^ 224) =
    some 0x79BE667E := by decide +kernel
theorem test_window_read : peek (host (.read 0x51C) (withA State.reset [(2, g1)])) (fun t => t.hostOut) = some [0x79BE667E] := by
  decide +kernel
theorem test_window_lanes : peek (host (.write 0x1000 0x64636261) State.reset) (fun t => t.memRead 0 4) =
    some [0x61, 0x62, 0x63, 0x64] := by decide +kernel
theorem test_window_unmapped : peek (host (.read 0x018) State.reset) id = none := by decide +kernel
theorem test_discard : peek (issue 0x02300007 (after [0x13310000] (regs [(3, 0xDEAD)]))) (fun t => (t.natR 3, t.errcmd)) =
    some (0xDEAD, 0x13310000) := by decide +kernel
theorem test_illegal : peek (issue 0xFF000000 State.reset) (fun t => (t.statusWord, t.errcmd)) =
    some (0x00000101, 0xFF000000) := by decide +kernel
theorem test_clrerr : peek (host (.write 0x014 1) (after [0x13310000] (regs [(3, 0xDEAD)])))
    (fun t => (t.statusWord, t.errcmd, t.natR 3)) = some (0, 0, 0xDEAD) := by decide +kernel
theorem test_srst : peek (host (.write 0x014 2) (after [0x13310000] (regs [(3, 0xDEAD)]))) id = some State.reset := by
  decide +kernel

/-! ## Witnesses: concrete states and operands that meet the hypotheses of each statement, clause by clause -/

theorem witness_EncodeInvertsDecode : decode 0x5331FE03 = .ok (.hmacinit .sha1 510 3) := by decide +kernel
theorem witness_DecodeInvertsEncode : (Instr.sign 14 1 2 true (.table 16)).wellFormed = true ∧
    encode (.sign 14 1 2 true (.table 16)) = encode (.sign 14 1 2 true (.table 16)) := ⟨by decide, rfl⟩

/-- A state about to issue the word `w`. -/
def issuing (w : Word32) : State := { State.reset with hostIn := [.write 0x004 w, .read 0x100] }

theorem witness_StepRunsTheDecodedCommand : (issuing 0x12312000).hostIn = .write 0x004 0x12312000 :: [.read 0x100] ∧
    (issuing 0x12312000).err = false ∧ decode 0x12312000 = .ok (.mulp 3 1 2) ∧ encode (.mulp 3 1 2) = 0x12312000 ∧
    (Instr.mulp 3 1 2).wellFormed = true := by decide +kernel
/-- All three cases, and both ends of the last. -/
theorem witness_CommandIssueFollowsItsRule : (after [0x13310000] State.reset).err = true ∧
    (State.reset.err = false ∧ decode 0xFF000000 = .error .opcode) ∧
    (State.reset.err = false ∧ decode 0x13310000 = .ok (.invp 3 1) ∧ peek (issue 0x13310000 State.reset) (·.err) = some true) ∧
    (State.reset.err = false ∧ decode 0x02300007 = .ok (.ldi 3 7) ∧ peek (issue 0x02300007 State.reset) (·.err) = some false) := by
  decide +kernel
theorem witness_FaultEntryWritesOnlyTheRecord : State.reset.err = false ∧ ∃ t, exec (.invp 3 1) State.reset = .next t ∧
    t.err = true := ⟨rfl, _, rfl, rfl⟩
theorem witness_RaisedFaultsAreTheListedOnes : (Instr.invp 3 1).wellFormed = true ∧ State.reset.err = false ∧
    Raises (.invp 3 1) State.reset .invZero ∧ (Instr.wnaf 1 1 1).wellFormed = false := ⟨rfl, rfl, rfl, rfl⟩
/-- `CLRERR` alone, no bit, `SRST` alone, both bits. -/
theorem witness_ClearErrClearsOnlyTheRecord :
    ({ State.reset with hostIn := [.write 0x014 1] } : State).hostIn = .write 0x014 1 :: [] ∧
    (1 : Word32).getLsbD 1 = false ∧ (1 : Word32).getLsbD 0 = true ∧ (0xFFFFFFFC : Word32).getLsbD 1 = false ∧
    (0xFFFFFFFC : Word32).getLsbD 0 = false ∧ (2 : Word32).getLsbD 1 = true ∧ (3 : Word32).getLsbD 1 = true := by decide +kernel
theorem witness_ResetGivesTheResetValues :
    ({ regs [(1, 5)] with hostIn := [.hardReset] } : State).hostIn = .hardReset :: [] ∧
    ({ regs [(1, 5)] with hostIn := [.write 0x014 3] } : State).hostIn = .write 0x014 3 :: [] ∧
    (3 : Word32).getLsbD 1 = true := by decide +kernel
theorem witness_WindowMapIsExact : locate 0x11FC = some (.dbuf 127) ∧ locate 0x000 = some .id ∧ locate 0xBDC = some (.jz 7 7) := by
  decide +kernel
/-- A mapped read, and both ends of each unmapped range. -/
theorem witness_ReadsAndBusErrors :
    ({ State.reset with hostIn := [.read (Loc.pend 31).offset] } : State).hostIn = .read (Loc.pend 31).offset :: [] ∧
    ([0x001, 0x11FE, 0x018, 0x0FC, 0x300, 0x3FC, 0x444, 0x47C, 0x7C4, 0x7FC, 0x860, 0x87C, 0xBE0, 0xBFC, 0xC0C, 0xC3C, 0xD00, 0xFFC,
      0x1200, 0x1FFC, 0x2000].all fun off => decide (locate off = none)) = true ∧
    (({ State.reset with hostIn := [.read 0x018] } : State).hostIn = .read 0x018 :: []) ∧
    (({ State.reset with hostIn := [.write 0x2000 0] } : State).hostIn = .write 0x2000 0 :: []) ∧
    ({ State.reset with hostIn := [.otherWidth 0x100 8] } : State).hostIn = .otherWidth 0x100 8 :: [] := by decide +kernel
theorem witness_WindowWordsReadBack :
    (({ State.reset with hostIn := [.write (Loc.jz 7 7).offset 5] } : State).hostIn = .write (Loc.jz 7 7).offset 5 :: [] ∧
      Loc.jz 7 7 ≠ .cmd ∧ Loc.jz 7 7 ≠ .ctrl) ∧ State.reset.dbuf.wf = true ∧ wholeWord (.dbuf 127) = true ∧
    Loc.ainf 7 = .ainf 7 ∧ (wholeWord .flags = false ∧ ∀ i, Loc.flags ≠ .ainf i) ∧ Loc.r 0 0 ≠ Loc.r 0 1 := by decide +kernel
theorem witness_WordWriteKeepsTheOtherBits : 255 < 256 ∧ (32 * (7 : Fin 8).val ≤ 255 ∧ 255 < 32 * (7 : Fin 8).val + 32) ∧
    State.reset.dbuf.wf = true ∧ (507 < 4 * (127 : Fin 128).val ∨ 4 * (127 : Fin 128).val + 4 ≤ 507) ∧
    (512 < 4 * (127 : Fin 128).val ∨ 4 * (127 : Fin 128).val + 4 ≤ 512) := by decide +kernel
/-- One command for each kind of destination, and a register, flag or byte outside it. -/
theorem witness_FrameIntegerRegisters : (∃ t, exec (.glvsplit 14 1) (regs [(1, 5)]) = .next t) ∧ (13 : RIdx) ∉ intDests (.glvsplit 14 1) ∧
    (0 : RIdx) ∉ intDests (.glvsplit 14 1) := ⟨⟨_, rfl⟩, by decide, by decide⟩
theorem witness_FramePointRegisters : (∃ t, exec (.pinf 7) State.reset = .next t) ∧ (6 : AIdx) ∉ affineDests (.pinf 7) ∧
    (7 : JIdx) ∉ jacDests (.pinf 7) := ⟨⟨_, rfl⟩, by decide, by decide⟩
theorem witness_FrameFlags : (∃ t, exec (.ldi 1 1) (State.reset.setT true) = .next t) ∧ writesT (.ldi 1 1) = false ∧
    writesHalfSigns (.ldi 1 1) = false := ⟨⟨_, rfl⟩, rfl, rfl⟩
theorem witness_FrameDataBuffer : (∃ t, exec (.stbe 1 100 5) (regs [(1, 7)]) = .next t) ∧
    storeRange (.stbe 1 100 5) (regs [(1, 7)]) = (100, 5) ∧ (99 < 100 ∨ 100 + 5 ≤ 99) ∧ (105 < 100 ∨ 100 + 5 ≤ 105) ∧
    storeRange (.ldi 1 1) (regs [(1, 7)]) = (0, 0) ∧ (0 < 0 ∨ 0 + 0 ≤ 0) := ⟨⟨_, rfl⟩, rfl, by decide, by decide, rfl, by decide⟩
theorem witness_FrameHashContextAndCache : (∃ t, exec (.ldi 1 1) (after [0x50000000] State.reset) = .next t) ∧
    writesHash (.ldi 1 1) = false ∧ fillsCache (.ldi 1 1) = false := ⟨⟨_, rfl⟩, rfl, rfl⟩

/-- A state with an open HMAC, a fault on record, a byte in DBUF and a command waiting. -/
def busy : State :=
  { after [0x53000002, 0x13310000] (withBytes State.reset 0 [0x61, 0x62]) with hostIn := [.write 0x014 1] }

theorem witness_StepKeepsTheInvariant : Inv busy ∧ ∃ t, step busy = .next t :=
  ⟨{ memory := by decide +kernel, faultRecord := by decide +kernel, hash := by decide +kernel, hkey := by decide +kernel,
     cache := by
       have h : busy.wnafCache = [] := by decide +kernel
       rw [h]
       simp [cacheOk] }, _, rfl⟩

theorem witness_IntegerLoadAndStore :
    (∃ (off : Off) (len : Byte), len.toNat ≤ 32 ∧ off.toNat + len.toNat ≤ 512 ∧ off.toNat = 480) ∧
    (∃ (off : Off) (len : Byte), len.toNat ≤ 32 ∧ 512 < off.toNat + len.toNat ∧ off.toNat = 481) ∧
    (∃ (s : State) (off : Off) (len : Byte), len.toNat ≤ 32 ∧ off.toNat + len.toNat ≤ 512 ∧ 256 ^ len.toNat ≤ s.natR 1) ∧
    ∃ (s : State) (off : Off) (len : Byte), len.toNat ≤ 32 ∧ off.toNat + len.toNat ≤ 512 ∧ s.natR 1 < 256 ^ len.toNat ∧
      s.dbuf.wf = true :=
  ⟨⟨480, 32, by decide⟩, ⟨481, 32, by decide⟩, ⟨regs [(1, 1)], 512, 0, by decide +kernel⟩,
    ⟨regs [(1, 2 ^ 256 - 1)], 480, 32, by decide +kernel⟩⟩
/-- Canonical operands at the boundary, a non-canonical one on either side, a finite and an infinite register. -/
theorem witness_CoordinateMoves :
    (let s := regs [(1, Config.p - 1), (2, 0)]
     s.natR 1 < Config.p ∧ s.natR 2 < Config.p) ∧
    (let s := regs [(1, Config.p), (2, 0)]
     Config.p ≤ s.natR 1 ∨ Config.p ≤ s.natR 2) ∧
    (State.reset.getA 0).inf = false ∧ ((withA State.reset [(0, ptInf)]).getA 0).inf = true := by decide +kernel
theorem witness_FieldAddAndSubtract :
    (let s := regs [(1, Config.p - 1), (2, Config.p - 1)]
     s.natR 1 < Config.p ∧ s.natR 2 < Config.p) ∧
    (let s := regs [(1, 0), (2, Config.p)]
     Config.p ≤ s.natR 1 ∨ Config.p ≤ s.natR 2) := by decide +kernel
theorem witness_ReducerComputesTheResidue : 2 ^ 512 - 1 < 2 ^ 512 := by decide +kernel
theorem witness_MultiplyAndReduce :
    (let s := regs [(1, Config.p - 1), (2, 0)]
     s.natR 1 < Config.p ∧ s.natR 2 < Config.p) ∧
    (let s := regs [(1, Config.p), (2, 0)]
     Config.p ≤ s.natR 1 ∨ Config.p ≤ s.natR 2) ∧
    (let s := regs [(1, Config.n - 1), (2, 0)]
     s.natR 1 < Config.n ∧ s.natR 2 < Config.n) ∧
    (let s := regs [(1, Config.n), (2, 0)]
     Config.n ≤ s.natR 1 ∨ Config.n ≤ s.natR 2) ∧ (14 : RIdx).val ≤ 14 := by decide +kernel
theorem witness_InverseIsTheUniqueInverse : (Config.n = Config.p ∨ Config.n = Config.n) ∧ 1 ≤ Config.n - 1 ∧
    Config.n - 1 ≤ Config.n - 1 ∧ (Config.n - 1) * (Config.n - 1) % Config.n = 1 := by decide +kernel
theorem witness_InverseCommands :
    (1 ≤ (regs [(1, Config.p - 1)]).natR 1 ∧ (regs [(1, Config.p - 1)]).natR 1 < Config.p) ∧
    Config.p ≤ (regs [(1, Config.p)]).natR 1 ∧
    (1 ≤ (regs [(1, Config.n - 1)]).natR 1 ∧ (regs [(1, Config.n - 1)]).natR 1 < Config.n) ∧
    Config.n ≤ (regs [(1, Config.n)]).natR 1 ∧ State.reset.natR 1 = 0 := by decide +kernel
theorem witness_PowerCommand : State.reset.natR 1 < Config.p ∧ Config.p ≤ (regs [(1, Config.p)]).natR 1 := by decide +kernel

/-- `c` with Jacobi symbol -1 has no square root modulo `p`. -/
theorem no_root {c : Nat} (hc : jacobiSym c Config.p = -1) : ¬∃ y, y < Config.p ∧ y * y % Config.p = c := by
  rintro ⟨y, _, hy⟩
  have hz : ((y * y % Config.p : ℕ) : ZMod Config.p) = (c : ℕ) := by rw [hy]
  rw [ZMod.natCast_mod] at hz
  push_cast at hz
  exact ZMod.nonsquare_of_jacobiSym_eq_neg_one hc ⟨(y : ZMod Config.p), by push_cast; exact hz.symm⟩

/-- 7 is no square modulo `p`: no curve point has x = 0 (section 2.4). -/
theorem no_root_seven : ¬∃ y, y < Config.p ∧ y * y % Config.p = 7 :=
  no_root (by unfold Config.p; norm_num)

theorem witness_SquareRootCommand :
    ((regs [(1, 4)]).natR 1 < Config.p ∧ ∃ y, y < Config.p ∧ y * y % Config.p = (regs [(1, 4)]).natR 1) ∧
    ((regs [(1, 7)]).natR 1 < Config.p ∧ ¬∃ y, y < Config.p ∧ y * y % Config.p = (regs [(1, 7)]).natR 1) ∧
    Config.p ≤ (regs [(1, Config.p)]).natR 1 := by
  have h4 : (regs [(1, 4)]).natR 1 = 4 := by decide +kernel
  have h7 : (regs [(1, 7)]).natR 1 = 7 := by decide +kernel
  rw [h4, h7]
  exact ⟨⟨by decide +kernel, 2, by decide +kernel⟩, ⟨by decide +kernel, no_root_seven⟩, by decide +kernel⟩
theorem witness_GroupCommandsComplete :
    ((withA State.reset [(1, g1), (2, ptInf)]).getA 1).toPt.wf = true ∧
    ((withA State.reset [(1, g1), (2, ptInf)]).getA 2).toPt.wf = true ∧
    (2 ≤ (2 : Byte).toNat ∧ (2 : Byte).toNat ≤ 8) ∧ 2 ≤ (8 : Byte).toNat ∧ (8 : Byte).toNat ≤ 8 := by decide +kernel
theorem witness_GroupCommandsCheckTheirPoints :
    pointFault (pt Config.p 1) = some .range ∧ pointFault (pt 1 1) = some .invalidPoint ∧
    pointFault ((withA State.reset [(1, pt 1 1)]).getA 1) = some .invalidPoint ∧
    pointFault ((withA State.reset [(1, ptInf), (2, pt 1 Config.p)]).getA 1) = none ∧
    pointFault ((withA State.reset [(1, ptInf), (2, pt 1 Config.p)]).getA 2) = some .range := by decide +kernel
theorem witness_PointPredicates :
    (((withA State.reset [(1, g1), (2, ptInf)]).getA 1).toPt.wf = true ∧
      ((withA State.reset [(1, g1), (2, ptInf)]).getA 2).toPt.wf = true) ∧
    ((withA State.reset [(1, g1), (2, ptInf)]).getA 1).inf = false ∧
    ((withA State.reset [(1, g1), (2, ptInf)]).getA 2).inf = true := by decide +kernel
theorem witness_PointFromX :
    ((regs [(1, Config.gx)]).natR 1 < Config.p ∧ Config.gy < Config.p ∧
      Config.gy * Config.gy % Config.p = ((regs [(1, Config.gx)]).natR 1 ^ 3 + 7) % Config.p ∧ Config.gy % 2 = false.toNat) ∧
    (State.reset.natR 1 < Config.p ∧ ¬∃ y, y < Config.p ∧ y * y % Config.p = (State.reset.natR 1 ^ 3 + 7) % Config.p) ∧
    Config.p ≤ (regs [(1, Config.p)]).natR 1 := by
  have h : (State.reset.natR 1 ^ 3 + 7) % Config.p = 7 := by decide +kernel
  rw [h]
  exact ⟨by decide +kernel, ⟨by decide +kernel, no_root_seven⟩, by decide +kernel⟩

/-- The six cases of decoding, as DBUF contents and lengths: too long; a bad prefix; a full form out of range; a full form at the
last legal offset; a compressed x of `p`; a compressed x without a root; a compressed point. -/
theorem witness_PointDecode :
    (512 < (448 : Off).toNat + (65 : Byte).toNat) ∧
    ((447 : Off).toNat + (65 : Byte).toNat ≤ 512) ∧
    (let B := (withBytes State.reset 0 [0x05]).memRead 0 33
     ¬(((B.getD 0 0).toNat = 2 ∨ (B.getD 0 0).toNat = 3) ∧ (33 : Byte).toNat = 33) ∧
     ¬((33 : Byte).toNat = 65 ∧ ((B.getD 0 0).toNat = 4 ∨ ((B.getD 0 0).toNat = 6 ∧ (B.getD 64 0).toNat % 2 = 0) ∨
        ((B.getD 0 0).toNat = 7 ∧ (B.getD 64 0).toNat % 2 = 1)))) ∧
    (let B := (withBytes State.reset 0 (0x04 :: tobe Config.p 32)).memRead 0 65
     ((65 : Byte).toNat = 65 ∧ (B.getD 0 0).toNat = 4) ∧ (Config.p ≤ be ((B.drop 1).take 32) ∨ Config.p ≤ be ((B.drop 33).take 32))) ∧
    (let B := (withBytes State.reset 447 (0x07 :: tobe Config.gx 32 ++ tobe (Config.gy + 1) 32)).memRead 447 65
     ((65 : Byte).toNat = 65 ∧ ((B.getD 0 0).toNat = 7 ∧ (B.getD 64 0).toNat % 2 = 1)) ∧ be ((B.drop 1).take 32) < Config.p ∧
      be ((B.drop 33).take 32) < Config.p) ∧
    (let B := (withBytes State.reset 0 (0x02 :: tobe Config.p 32)).memRead 0 33
     ((B.getD 0 0).toNat = 2 ∧ (33 : Byte).toNat = 33) ∧ Config.p ≤ be ((B.drop 1).take 32)) ∧
    (let B := (withBytes State.reset 0 (0x03 :: tobe Config.gx 32)).memRead 0 33
     ((B.getD 0 0).toNat = 3 ∧ (33 : Byte).toNat = 33) ∧ be ((B.drop 1).take 32) < Config.p ∧ Config.p - Config.gy < Config.p ∧
      (Config.p - Config.gy) * (Config.p - Config.gy) % Config.p = (be ((B.drop 1).take 32) ^ 3 + 7) % Config.p ∧
      (Config.p - Config.gy) % 2 = (B.getD 0 0).toNat % 2) := by decide +kernel
theorem witness_PointDecode_no_root :
    let B := (withBytes State.reset 0 [0x02]).memRead 0 33
    ((B.getD 0 0).toNat = 2 ∧ (33 : Byte).toNat = 33) ∧ be ((B.drop 1).take 32) < Config.p ∧
      ¬∃ y, y < Config.p ∧ y * y % Config.p = (be ((B.drop 1).take 32) ^ 3 + 7) % Config.p := by
  have h : (be ((((withBytes State.reset 0 [0x02]).memRead 0 33).drop 1).take 32) ^ 3 + 7) % Config.p = 7 := by decide +kernel
  dsimp only
  rw [h]
  exact ⟨by decide +kernel, by decide +kernel, no_root_seven⟩
theorem witness_PointEncode :
    ((33 : Byte).toNat = 33 ∨ (33 : Byte).toNat = 65) ∧ ((65 : Byte).toNat = 33 ∨ (65 : Byte).toNat = 65) ∧
    512 < (480 : Off).toNat + (33 : Byte).toNat ∧ (479 : Off).toNat + (33 : Byte).toNat ≤ 512 ∧
    ((withA State.reset [(1, ptInf)]).getA 1).inf = true ∧
    (((withA State.reset [(1, pt Config.p 1)]).getA 1).inf = false ∧ Config.p ≤ ((withA State.reset [(1, pt Config.p 1)]).getA 1).x.toNat) ∧
    (let s := withA State.reset [(1, pt (Config.p - 1) 1)]
     (s.getA 1).inf = false ∧ (s.getA 1).x.toNat < Config.p ∧ (s.getA 1).y.toNat < Config.p ∧ s.dbuf.wf = true) := by decide +kernel
theorem witness_EncodedPointsDecodeToThemselves :
    let s := withA State.reset [(1, g1)]
    s.dbuf.wf = true ∧ ((65 : Byte).toNat = 33 ∨ (65 : Byte).toNat = 65) ∧ (447 : Off).toNat + (65 : Byte).toNat ≤ 512 ∧
      (s.getA 1).inf = false ∧ (s.getA 1).toPt.wf = true := by decide +kernel
theorem witness_JacobianCommands :
    ((withA State.reset [(1, ptInf)]).getA 1).inf = true ∧
    (((withA State.reset [(1, g1)]).getA 1).inf = false ∧ ((withA State.reset [(1, g1)]).getA 1).x.toNat < Config.p ∧
      ((withA State.reset [(1, g1)]).getA 1).y.toNat < Config.p) ∧
    (((withA State.reset [(1, pt Config.p 1)]).getA 1).inf = false ∧ Config.p ≤ ((withA State.reset [(1, pt Config.p 1)]).getA 1).x.toNat) ∧
    jacCanonical (jp 5 6 0) = true ∧ jacCanonical (jp (Config.p - 1) 0 1) = true ∧ jacCanonical (jp 5 Config.p 0) = false ∧
    jacCanonical ((withJ State.reset [(1, jp 5 6 0)]).getJ 1) = true := by decide +kernel
theorem witness_JacobianAgreesWithAffine : Pt.gen.wf = true ∧ Pt.inf.wf = true ∧
    (let j1 := (Jac.ofAffine Pt.gen).dbl
     (j1.X < Config.p ∧ j1.Y < Config.p ∧ j1.Z < Config.p) ∧ j1.toAffine = .fin
       0xC6047F9441ED7D6D3045406E95C07CD85C778E4B8CEF3CA7ABAC09B95C709EE5
       0x1AE168FEA63DC339A3C58419466CEAEEF7F632653266D0E1236431A950CFE52A) ∧
    (let j2 : Jac := { X := 5, Y := 6, Z := 0 }
     (j2.X < Config.p ∧ j2.Y < Config.p ∧ j2.Z < Config.p) ∧ j2.toAffine = .inf) := by decide +kernel
theorem witness_CurvePointsFormAnAbelianGroup : Pt.gen.wf = true ∧ Pt.gen.neg.wf = true ∧ g2.toPt.wf = true := by decide +kernel
theorem witness_ScalarMultipleIsRepeatedAddition : Pt.gen.wf = true := by decide +kernel
theorem witness_WindowedMultiplicationIsTheMultiple : Pt.gen.wf = true ∧ (2 ≤ 2 ∧ 2 ≤ 8) ∧ (2 ≤ 8 ∧ 8 ≤ 8) ∧
    Pt.inf.wf = true ∧ g3.toPt.wf = true := by decide +kernel
theorem witness_RecoderProperties : (2 ≤ 2 ∧ 2 ≤ 8) ∧ (wnaf 7 2).getD 0 0 ≠ 0 ∧ (0 < 1 ∧ 1 < 0 + 2) ∧
    (wnaf 7 2).getLast? = some 1 ∧ 2 ^ 256 - 1 < 2 ^ 256 := by decide +kernel
theorem witness_RecoderCommandWritesTheDigits : State.reset.dbuf.wf = true ∧ (2 ≤ (8 : Byte).toNat ∧ (8 : Byte).toNat ≤ 8) ∧
    0 < (wnaf ((regs [(1, 5)]).natR 1) 8).length := by decide +kernel
theorem witness_SplitterHalvesTheScalar : (14 : RIdx).val ≤ 14 ∧ Config.n - 1 < Config.n ∧
    (regs [(1, Config.n - 1)]).natR 1 < Config.n ∧ Config.n ≤ (regs [(1, Config.n)]).natR 1 := by decide +kernel
theorem witness_TruncationToTheOrder : 2 ^ 256 - 1 < 2 ^ 256 ∧ (256 + 8 * 0 < bitlen (2 ^ 256) ∧ bitlen (2 ^ 256) ≤ 264 + 8 * 0) ∧
    (256 + 8 * 31 < bitlen (2 ^ 512 - 1) ∧ bitlen (2 ^ 512 - 1) ≤ 264 + 8 * 31) ∧ (14 : RIdx).val ≤ 14 := by decide +kernel
theorem witness_NonceCandidateCommand :
    (1 ≤ (regs [(2, Config.n - 1)]).natR 2 ∧ (regs [(2, Config.n - 1)]).natR 2 < Config.n) ∧
    (State.reset.natR 2 = 0 ∨ Config.n ≤ State.reset.natR 2) ∧
    ((regs [(2, Config.n)]).natR 2 = 0 ∨ Config.n ≤ (regs [(2, Config.n)]).natR 2) := by decide +kernel
/-- The clauses of signing with nonce 2: the key's and the nonce's boundaries, then `[2]G`, its inverse, and the two values the
last case asks to be non-zero; `witness_SignWithAFixedNonce_zero_s` below meets the case of a zero `s`. -/
theorem witness_SignWithAFixedNonce : (14 : RIdx).val ≤ 14 ∧ (Config.n = 0 ∨ Config.n ≤ Config.n) ∧
    (1 ≤ 1 ∧ 1 < Config.n ∧ ((1 ≤ 1 ∨ Config.n - 1 ≤ 1) ∧ (Config.n - 1 ≤ 1 ∨ Config.n - 1 ≤ Config.n - 1))) ∧
    (let key := (regs [(2, 1), (3, 2)]).natR 2
     let k := (regs [(2, 1), (3, 2)]).natR 3
     let x := 0xC6047F9441ED7D6D3045406E95C07CD85C778E4B8CEF3CA7ABAC09B95C709EE5
     let y := 0x1AE168FEA63DC339A3C58419466CEAEEF7F632653266D0E1236431A950CFE52A
     let kinv := (Config.n + 1) / 2
     1 ≤ key ∧ key < Config.n ∧ 2 ≤ k ∧ k < Config.n - 1 ∧ smul k Pt.gen = .fin x y ∧ kinv < Config.n ∧ k * kinv % Config.n = 1 ∧
      x % Config.n ≠ 0 ∧ kinv * ((x % Config.n * key + 0) % Config.n) % Config.n ≠ 0) := by decide +kernel
/-- Section 2.7: a key for which `r * key + z` is zero. -/
theorem witness_SignWithAFixedNonce_zero_s : peek (issue 0x42412302
    (regs [(1, 0xA0DC65FFCA799873CBEA0AC274015B9526505DAAAED385155425F7337704883E),
      (2, 0xA03EC85791F4D22EDF788B9F798BD29569CB572CDE065B8D6BFBC8C566C1AA95), (3, 2)])) fault = some (true, 11) := by
  decide +kernel

/-- A table of two entries, 0 and 2, and the key 1: entry 0 is rejected, entry 1 signs (section 2.7, the FIXED row with nonce 2). -/
def tabled : State :=
  withBytes (regs [(1, 0xA0DC65FFCA799873CBEA0AC274015B9526505DAAAED385155425F7337704883E), (2, 1)]) 32 (tobe 2 32)

theorem witness_SignSearchesItsCandidates_table :
    nonceSrcOk (.table 2) = true ∧ 1 ≤ tabled.natR 2 ∧ tabled.natR 2 < Config.n ∧ (2 : BitVec 5).toNat = 2 ∧
    (let tried := fun j => tryNonce (tabled.natR 2) (tabled.natR 1 % Config.n) false (be (tabled.memRead (32 * j) 32))
     tried 0 = .error .kRange ∧ tried 1 = .ok (0xC6047F9441ED7D6D3045406E95C07CD85C778E4B8CEF3CA7ABAC09B95C709EE5,
       0x337072CA06338AF07E17A59884E0EC37640C8787C63D10C09FFFD130019F72F1)) := by decide +kernel
theorem witness_SignSearchesItsCandidates_exhausted :
    ∀ l, l < (1 : BitVec 5).toNat → ∃ e, tryNonce 1 0 false (be (tabled.memRead (32 * l) 32)) = .error e := by
  intro l hl
  have h : l = 0 := by have h1 : (1 : BitVec 5).toNat = 1 := rfl; omega
  subst h
  exact ⟨.kRange, by decide +kernel⟩
/-- The two keys that fault, at the boundaries, with each nonce source. -/
theorem witness_SignSearchesItsCandidates_key : (14 : RIdx).val ≤ 14 ∧ nonceSrcOk .drbg = true ∧ nonceSrcOk (.table 16) = true ∧
    (State.reset.natR 2 = 0 ∨ Config.n ≤ State.reset.natR 2) ∧
    ((regs [(2, Config.n)]).natR 2 = 0 ∨ Config.n ≤ (regs [(2, Config.n)]).natR 2) := by decide +kernel
/-- With the generator, whatever `SIGN_MAX_ITER` is, one of the two clauses applies. -/
theorem witness_SignSearchesItsCandidates_drbg (tried : Nat → Except ErrCode (Nat × Nat)) :
    (∃ j sig, j < Config.signMaxIter ∧ (∀ l, l < j → ∃ e, tried l = .error e) ∧ tried j = .ok sig) ∨
      ∀ l, l < Config.signMaxIter → ∃ e, tried l = .error e := by
  generalize Config.signMaxIter = limit
  induction limit with
  | zero => exact .inr fun l hl => absurd hl (by omega)
  | succ m ih =>
    obtain ⟨j, sig, hj, hb, ht⟩ | hall := ih
    · exact .inl ⟨j, sig, by omega, hb, ht⟩
    · cases ht : tried m with
      | ok sig => exact .inl ⟨m, sig, by omega, hall, ht⟩
      | error e =>
        refine .inr fun l hl => ?_
        by_cases hlm : l = m
        · exact ⟨e, hlm ▸ ht⟩
        · exact hall l (by omega)

theorem peek_some {α : Type} {o : Host.Outcome State Fault Refusal} {f : State → α} {v : α} (h : peek o f = some v) :
    ∃ t, o = .next t ∧ f t = v := by
  cases o with
  | next t => exact ⟨t, rfl, Option.some.inj h⟩
  | fault _ => cases h
  | refused _ => cases h

/-- Message 5, key 1 in `r2`, nonce 2 in `r3`, and the public key `[1]G` in `a0`. -/
def toSign : State := withA (regs [(1, 5), (2, 1), (3, 2)]) [(0, g1)]

theorem witness_SignaturesAreInRange : toSign.err = false ∧
    ∃ t, exec (.sign 4 1 2 false (.fixed 3)) toSign = .next t ∧ t.err = false :=
  ⟨by decide +kernel, peek_some (by decide +kernel)⟩
theorem witness_SignedMessagesVerify : toSign.err = false ∧
    (∃ t, exec (.sign 4 1 2 true (.fixed 3)) toSign = .next t ∧ t.err = false) ∧
    (1 : RIdx) ≠ 4 ∧ (1 : RIdx) ≠ pairHigh 4 ∧ (toSign.getA 0).toPt = smul (toSign.natR 2) Pt.gen :=
  ⟨by decide +kernel, peek_some (by decide +kernel), by decide +kernel⟩
theorem witness_VerifyCommand :
    (ptInf.inf = true) ∧ (pt 1 1).inf = false ∧ pointFault (pt 1 1) = some .invalidPoint ∧
    (g1.inf = false ∧ g1.toPt.wf = true ∧ ((0 : Nat) = 0 ∨ Config.n ≤ 0) ∧ (Config.n = 0 ∨ Config.n ≤ Config.n)) ∧
    (let s := withA (regs [(1, 5), (2, Config.n - 1), (3, 2)]) [(0, g1)]
     (s.getA 0).inf = false ∧ (s.getA 0).toPt.wf = true ∧ 1 ≤ s.natR 2 ∧ s.natR 2 < Config.n ∧ 1 ≤ s.natR 3 ∧ s.natR 3 < Config.n ∧
      (Config.n + 1) / 2 < Config.n ∧ s.natR 3 * ((Config.n + 1) / 2) % Config.n = 1) := by decide +kernel

/-- Section 2.8: the state is tested before the buffer range (`HDIGEST 449` with no open computation). -/
theorem witness_HashContextStateTable_state_first : peek (issue 0x5201C100 State.reset) fault = some (true, 13) := by decide +kernel
/-- Sections 1.1 and 2.8: the read-only views after absorbing one byte. -/
theorem test_hash_views : ([Loc.hctl, .hlenLo, .hlenHi, .hLo 0, .hHi 0, .pend 0].map
    (readLoc (after [0x50000000, 0x51000001] (withBytes State.reset 0 abc)))) =
    [0x00000101, 1, 0, 0x6A09E667, 0, 0x00000061] := by decide +kernel

/-- Hash states: idle, plain and keyed, with each algorithm class; ranges that just fit; the longest message. The wrong-state
clauses have no range hypothesis; offset 481 is one where the range does not fit either. -/
theorem witness_HashContextStateTable :
    State.reset.hc.active = false ∧ ¬((481 : Off).toNat + digestLen State.reset.hc.alg ≤ 512) ∧
    (let s := after [0x50000001] State.reset
     s.hc.active = true ∧ s.hc.hmac = false ∧ s.hc.alg ≠ .sha256 ∧ (448 : Off).toNat + digestLen s.hc.alg ≤ 512) ∧
    (let s := after [0x50000000] State.reset
     s.hc.active = true ∧ s.hc.hmac = false ∧ s.hc.alg = .sha256 ∧ (480 : Off).toNat + 32 ≤ 512 ∧
      s.hc.hlen.toNat + (512 : BitVec 12).toNat < 2 ^ 61 ∧ (0 : BitVec 12).toNat + (512 : BitVec 12).toNat ≤ 512) ∧
    (let s := after [0x53300000] State.reset
     s.hc.active = true ∧ s.hc.hmac = true ∧ (492 : Off).toNat + digestLen s.hc.alg ≤ 512) ∧
    (257 : Off).toNat + (255 : Byte).toNat ≤ 512 ∧ writesHash .nop = false ∧ (2 : Word32).getLsbD 1 = true ∧
    (1 : Word32).getLsbD 1 = false := by decide +kernel
/-- A context just below the length limit. -/
def nearLimit : State :=
  { State.reset with hc := { freshCtx .sha256 false with hlen := 0x1FFFFFFFFFFFFFFF, npend := 63 } }

theorem witness_HashCommandsComplete : 2 ^ 61 - 1 < 2 ^ 61 ∧ State.reset.dbuf.wf = true ∧ nearLimit.dbuf.wf = true ∧
    512 < (1 : BitVec 12).toNat + (512 : BitVec 12).toNat ∧
    (nearLimit.hc.active = true ∧ (511 : BitVec 12).toNat + (1 : BitVec 12).toNat ≤ 512 ∧
      2 ^ 61 ≤ nearLimit.hc.hlen.toNat + (1 : BitVec 12).toNat) ∧
    nearLimit.hc.hlen.toNat + (0 : BitVec 12).toNat < 2 ^ 61 ∧
    (nearLimit.hc.hmac = false ∧ nearLimit.hc.alg = .sha256 ∧ (480 : Off).toNat + digestLen nearLimit.hc.alg ≤ 512 ∧
      512 < (481 : Off).toNat + digestLen nearLimit.hc.alg) ∧
    (512 < (481 : Off).toNat + 32 ∧ 512 < (493 : Off).toNat + 20 ∧ (480 : Off).toNat + 32 ≤ 512 ∧ (492 : Off).toNat + 20 ≤ 512) ∧
    (512 < (258 : Off).toNat + (255 : Byte).toNat ∧ (257 : Off).toNat + (255 : Byte).toNat ≤ 512) ∧
    (let s := after [0x53100000] State.reset
     s.hc.active = true ∧ s.hc.hmac = true ∧ 512 < (449 : Off).toNat + digestLen s.hc.alg ∧
      (448 : Off).toNat + digestLen s.hc.alg ≤ 512 ∧ s.dbuf.wf = true) := by decide +kernel
theorem witness_AbsorbSplitsAnywhere : nearLimit.hc.active = true ∧ hashOk nearLimit.hc = true ∧
    (freshCtx .sha512 true).active = true ∧ hashOk (freshCtx .sha512 true) = true := by decide +kernel
theorem witness_HashProgramsComputeTheirFunctions : State.reset.dbuf.wf = true ∧ (512 : BitVec 12).toNat ≤ 512 ∧
    (448 : Off).toNat + digestLen .sha512 ≤ 512 ∧ (480 : Off).toNat + 32 ≤ 512 ∧ (492 : Off).toNat + 20 ≤ 512 ∧
    (257 : Off).toNat + (255 : Byte).toNat ≤ 512 := by decide +kernel

end Sys2Proof.Tests
end

/-! ## A step that serves a write to `CMD` -/

namespace Sys2Proof

/-- The word of a well-formed command decodes to that command (30_encoding.md R67), one round trip for each constructor. -/
theorem decode_encode : ∀ (i : Instr), i.wellFormed = true → decode (encode i) = .ok i
  | .nop => Laws.RoundTrip.nop
  | .mov _ _ => Laws.RoundTrip.mov _ _
  | .ldi _ _ => Laws.RoundTrip.ldi _ _
  | .ldc _ _ => Laws.RoundTrip.ldc _ _
  | .ldbe _ _ _ => Laws.RoundTrip.ldbe _ _ _
  | .stbe _ _ _ => Laws.RoundTrip.stbe _ _ _
  | .pset _ _ _ => Laws.RoundTrip.pset _ _ _
  | .pgetx _ _ => Laws.RoundTrip.pgetx _ _
  | .pgety _ _ => Laws.RoundTrip.pgety _ _
  | .pmov _ _ => Laws.RoundTrip.pmov _ _
  | .pldg _ => Laws.RoundTrip.pldg _
  | .pinf _ => Laws.RoundTrip.pinf _
  | .jmov _ _ => Laws.RoundTrip.jmov _ _
  | .addp _ _ _ => Laws.RoundTrip.addp _ _ _
  | .subp _ _ _ => Laws.RoundTrip.subp _ _ _
  | .mulp _ _ _ => Laws.RoundTrip.mulp _ _ _
  | .invp _ _ => Laws.RoundTrip.invp _ _
  | .powp _ _ _ => Laws.RoundTrip.powp _ _ _
  | .sqrtp _ _ => Laws.RoundTrip.sqrtp _ _
  | .redp _ _ => Laws.RoundTrip.redp _ _
  | .muln _ _ _ => Laws.RoundTrip.muln _ _ _
  | .invn _ _ => Laws.RoundTrip.invn _ _
  | .redn _ _ => Laws.RoundTrip.redn _ _
  | .padd _ _ _ => Laws.RoundTrip.padd _ _ _
  | .pdbl _ _ => Laws.RoundTrip.pdbl _ _
  | .pneg _ _ => Laws.RoundTrip.pneg _ _
  | .peq _ _ => Laws.RoundTrip.peq _ _
  | .pvalid _ => Laws.RoundTrip.pvalid _
  | .pfromx _ _ _ => Laws.RoundTrip.pfromx _ _ _
  | .pdec _ _ _ => Laws.RoundTrip.pdec _ _ _
  | .penc _ _ _ => Laws.RoundTrip.penc _ _ _
  | .jfroma _ _ => Laws.RoundTrip.jfroma _ _
  | .jtoa _ _ => Laws.RoundTrip.jtoa _ _
  | .jadd _ _ _ => Laws.RoundTrip.jadd _ _ _
  | .jdbl _ _ => Laws.RoundTrip.jdbl _ _
  | .jneg _ _ => Laws.RoundTrip.jneg _ _
  | .wnaf _ _ _ => Laws.RoundTrip.wnaf _ _ _
  | .glvsplit _ _ => Laws.RoundTrip.glvsplit _ _
  | .pendo _ _ => Laws.RoundTrip.pendo _ _
  | .pmul _ _ _ _ => Laws.RoundTrip.pmul _ _ _ _
  | .pmuladd _ _ _ _ _ => Laws.RoundTrip.pmuladd _ _ _ _ _
  | .truncn _ _ _ => Laws.RoundTrip.truncn _ _ _
  | .drbgk _ _ _ _ => Laws.RoundTrip.drbgk _ _ _ _
  | .sign _ _ _ _ _ => Laws.RoundTrip.sign _ _ _ _ _
  | .verify _ _ _ _ => Laws.RoundTrip.verify _ _ _ _
  | .hinit _ => Laws.RoundTrip.hinit _
  | .hupdate _ _ => Laws.RoundTrip.hupdate _ _
  | .hdigest _ => Laws.RoundTrip.hdigest _
  | .hdigestH256 _ => Laws.RoundTrip.hdigestH256 _
  | .hdigestH160 _ => Laws.RoundTrip.hdigestH160 _
  | .hmacinit _ _ _ => Laws.RoundTrip.hmacinit _ _ _
  | .hmacfinal _ => Laws.RoundTrip.hmacfinal _

end Sys2Proof

namespace Sys2Proof.Machine

/-- The step that serves a write to `CMD` issues the word, in the state whose queue has lost the write. -/
theorem step_write_cmd {s : State} {w : Word32} {rest : List HostEvent} (h : s.hostIn = .write 0x004 w :: rest) :
    step s = issue w { s with hostIn := rest } := by
  rw [step, h]
  rfl

/-- Without a fault on record, a legal word runs its command. -/
theorem issue_of_decode {s : State} {w : Word32} {i : Instr} (herr : s.err = false) (hd : decode w = .ok i) :
    issue w s = exec i s := by
  rw [issue, herr, hd]
  rfl

/-- The word put at the head of the queue is the next one to be issued (log entry 2). -/
theorem step_withFetchWord (s : State) (w : Nat) : step (s.withFetchWord 32 w) = issue (BitVec.ofNat 32 w) s := by
  rw [step_write_cmd (rest := s.hostIn) rfl]
  have hw : BitVec.ofNat 32 (w % 2 ^ 32) = BitVec.ofNat 32 w := BitVec.eq_of_toNat_eq (by simp)
  rw [hw]
  rfl

/-- Settles O4: the step issues the word, and the word of a well-formed command decodes to it. -/
theorem stepRunsTheDecodedCommand : Obligations.StepRunsTheDecodedCommand := by
  refine ⟨fun s w i rest h herr hd => ?_, fun s i rest h herr hw => ?_, step_withFetchWord⟩
  · exact (step_write_cmd h).trans (issue_of_decode herr hd)
  · exact (step_write_cmd h).trans (issue_of_decode herr (decode_encode i hw))

/-! ## What holds at the end of every command -/

/-- A rule that goes through ends in a state with the property `P`. -/
def Ensures (P : State → Prop) (rule : Except ErrCode State) : Prop := ∀ t, rule = .ok t → P t

theorem ensures_ok {P : State → Prop} {t : State} (h : P t) : Ensures P (.ok t) := by
  rintro _ ⟨⟩
  exact h

/-- A test or an operand before the rest of a rule takes nothing from what the rest ensures. -/
theorem ensures_bind {α : Type} {P : State → Prop} {m : Except ErrCode α} {f : α → Except ErrCode State}
    (h : ∀ x, Ensures P (f x)) : Ensures P (m >>= f) := by
  intro t ht
  obtain ⟨x, -, hx⟩ := bind_eq_ok.1 ht
  exact h x t hx

/-- The outcome of the command `i` is a state with the property `P`, or fault entry (60_exceptions.md R263). -/
def EndsWith (P : State → Prop) (i : Instr) (s : State) (o : Host.Outcome State Fault Refusal) : Prop :=
  ∃ t, o = .next t ∧ (P t ∨ ∃ e, t = faultEntry e (encode i) s)

theorem command_endsWith {P : State → Prop} {i : Instr} {s : State} {rule : Except ErrCode State} (h : Ensures P rule) :
    EndsWith P i s (command i s rule) := by
  rcases command_cases i s rule with ⟨t, -, hr, hc⟩ | ⟨e, -, -, hc⟩ | ⟨-, hc⟩
  · exact ⟨t, hc, .inl (h t hr)⟩
  · exact ⟨_, hc, .inr ⟨e, rfl⟩⟩
  · exact ⟨_, hc, .inr ⟨_, rfl⟩⟩

/-- The fault record of 60_exceptions.md R262 and the host's two lists, which no command's writes touch. -/
def State.recordAndHost (s : State) : (Bool × Byte × Word32) × List HostEvent × List Word32 :=
  ((s.err, s.errcode, s.errcmd), s.hostIn, s.hostOut)

@[simp] theorem recordAndHost_touchTable (s : State) (w : Nat) (q : Pt) :
    (s.touchTable w q).recordAndHost = s.recordAndHost := by
  cases q <;> rfl

@[simp] theorem recordAndHost_touchTables (s : State) (terms : List (Nat × Pt)) :
    (s.touchTables terms).recordAndHost = s.recordAndHost := by
  obtain ⟨c, hc⟩ := touchTables_eq s terms
  rw [hc]
  rfl

/-- Every command keeps the fault record and the host's lists, or ends by fault entry. The cases are grouped by how many
tests a rule makes before its writes. -/
theorem exec_endsWith_recordAndHost (i : Instr) (s : State) :
    EndsWith (fun t => t.recordAndHost = s.recordAndHost) i s (exec i s) := by
  cases i
  case nop | mov | ldi | ldc | pmov | pldg | pinf | jmov | redp | redn | wnaf | truncn | hinit =>
    refine command_endsWith (ensures_ok ?_)
    rfl
  case ldbe | pgetx | pgety | powp | pdbl | pneg | pvalid | pfromx | jfroma | jtoa | jdbl | jneg | glvsplit | pendo | drbgk |
      hmacinit =>
    exact command_endsWith (ensures_bind fun _ => ensures_ok rfl)
  case sqrtp rd ra =>
    refine command_endsWith (ensures_bind fun x => ?_)
    cases sqrtp x with
    | none => exact ensures_ok rfl
    | some t => exact ensures_ok rfl
  case stbe | pset | addp | subp | mulp | invp | muln | invn | padd | peq | pdec | jadd | sign | verify | hdigest |
      hmacfinal =>
    exact command_endsWith (ensures_bind fun _ => ensures_bind fun _ => ensures_ok rfl)
  case penc | hupdate | hdigestH256 | hdigestH160 =>
    exact command_endsWith (ensures_bind fun _ => ensures_bind fun _ => ensures_bind fun _ => ensures_ok rfl)
  case pmul => exact command_endsWith (ensures_bind fun _ => ensures_ok (by simp; rfl))
  case pmuladd => exact command_endsWith (ensures_bind fun _ => ensures_bind fun _ => ensures_ok (by simp; rfl))

/-- Settles O7: a command is its rule run by `command`, and no rule's writes touch the record or the lists. -/
theorem everyCommandCompletesOrFaults : Obligations.EveryCommandCompletesOrFaults := by
  intro i s
  obtain ⟨t, ht, hkeep | hfault⟩ := exec_endsWith_recordAndHost i s
  · simp only [State.recordAndHost, Prod.mk.injEq] at hkeep
    obtain ⟨⟨herr, hcode, hcmd⟩, hin, hout⟩ := hkeep
    exact ⟨t, ht, .inl ⟨herr, hcode, hcmd, hin, hout⟩⟩
  · exact ⟨t, ht, .inr hfault⟩

/-! ## The point operands of the group commands -/

/-- `check_point` raises the fault of the register value (00_scope.md R15). -/
theorem checkPoint_eq_error {q : APoint} {e : ErrCode} (h : pointFault q = some e) : checkPoint q = .error e := by
  unfold pointFault at h
  unfold checkPoint
  split_ifs at h with hinf hr hc
  · have hin : ¬(Config.p ≤ q.x.toNat ∨ Config.p ≤ q.y.toNat) := by omega
    simp only [onCurve, hr, decide_true, Bool.true_and, decide_eq_true_eq] at hc
    rw [if_neg hinf, if_neg hin, if_neg hc, Option.some.inj h]
  · have hout : Config.p ≤ q.x.toNat ∨ Config.p ≤ q.y.toNat := by omega
    rw [if_neg hinf, if_pos hout, Option.some.inj h]

/-- A register value without a fault is a well-formed point. -/
theorem toPt_wf_of_pointFault {q : APoint} (h : pointFault q = none) : q.toPt.wf = true := by
  unfold pointFault at h
  cases hinf : q.inf with
  | true => simp [APoint.toPt, hinf, Pt.wf]
  | false =>
    rw [if_neg (by simp [hinf])] at h
    split_ifs at h with hr hc
    simpa [APoint.toPt, hinf, Pt.wf] using hc

theorem pointOperand_eq_error {s : State} {i : AIdx} {e : ErrCode} (h : pointFault (s.getA i) = some e) :
    pointOperand s i = .error e := checkPoint_eq_error h

theorem pointOperand_eq_ok {s : State} {i : AIdx} (h : pointFault (s.getA i) = none) :
    pointOperand s i = .ok (s.getA i).toPt := checkPoint_ok (toPt_wf_of_pointFault h)

/-- A group command whose first point has a fault raises it, whatever the rest of its rule. -/
theorem command_first_point {i : Instr} {s : State} {aa : AIdx} {e : ErrCode} {f : Pt → Except ErrCode State}
    (hw : i.wellFormed = true) (h : pointFault (s.getA aa) = some e) :
    command i s (pointOperand s aa >>= f) = .next (faultEntry e (encode i) s) :=
  command_error hw (by rw [pointOperand_eq_error h, error_bind])

/-- A group command whose first point passes and whose second has a fault raises that one. -/
theorem command_second_point {i : Instr} {s : State} {aa ab : AIdx} {e : ErrCode} {f : Pt → Pt → Except ErrCode State}
    (hw : i.wellFormed = true) (hok : pointFault (s.getA aa) = none) (h : pointFault (s.getA ab) = some e) :
    command i s (pointOperand s aa >>= fun q1 => pointOperand s ab >>= f q1) = .next (faultEntry e (encode i) s) :=
  command_error hw (by rw [pointOperand_eq_ok hok, ok_bind, pointOperand_eq_error h, error_bind])

theorem pmul_wellFormed (ad : AIdx) (rk : RIdx) (ab : AIdx) {w : Byte} (hmin : 2 ≤ w.toNat) (hmax : w.toNat ≤ 8) :
    (Instr.pmul ad rk ab w).wellFormed = true := by
  have hw : windowOk w = true := decide_eq_true ⟨hmin, hmax⟩
  simp [Instr.wellFormed, Instr.check, hw]

/-- Settles O34: in each rule the point operands come first, in operand order. -/
theorem groupCommandsCheckTheirPoints : Obligations.GroupCommandsCheckTheirPoints := by
  intro s ad aa ab e
  constructor
  · intro h
    exact ⟨command_first_point rfl h, command_first_point rfl h, command_first_point rfl h, command_first_point rfl h,
      command_first_point rfl h, fun rk w hmin hmax => command_first_point (pmul_wellFormed ad rk aa hmin hmax) h,
      fun _ _ => command_first_point rfl h⟩
  · intro hok h
    exact ⟨command_second_point rfl hok h, command_second_point rfl hok h, fun _ _ => command_second_point rfl hok h⟩

end Sys2Proof.Machine

/-! ## The field prime is a prime -/

namespace Sys2Proof.Machine

/-- The radix-32 loop of `powMod`, read in `ZMod m`: digits `i - 1` down to 0 of the exponent. -/
theorem powModLoop_cast (m x e i acc : Nat) :
    (powModLoop m x e i acc : ZMod m) = (acc : ZMod m) ^ 32 ^ i * (x : ZMod m) ^ (e % 32 ^ i) := by
  induction i generalizing acc with
  | zero => simp [powModLoop, Nat.mod_one]
  | succ i ih =>
    rw [powModLoop, ih, ZMod.natCast_mod, Nat.pow_succ 32 i, Nat.mod_mul (x := e), pow_add (x : ZMod m)]
    push_cast
    rw [mul_pow, ← pow_mul, ← pow_mul, mul_comm 32, mul_comm (e / 32 ^ i % 32)]
    ring

/-- `powMod` is the power, for every exponent of the length it serves. -/
theorem powMod_cast (m x : Nat) {e : Nat} (he : e < 32 ^ 52) : (powMod m x e : ZMod m) = (x : ZMod m) ^ e := by
  rw [powMod, powModLoop_cast, ZMod.natCast_mod, Nat.cast_one, one_pow, one_mul, Nat.mod_eq_of_lt he]

theorem powMod_mod_eq_one_iff {m x e : Nat} (hm : 1 < m) (he : e < 32 ^ 52) :
    powMod m x e % m = 1 ↔ (x : ZMod m) ^ e = 1 := by
  rw [← powMod_cast m x he, ← Nat.cast_one (R := ZMod m), ZMod.natCast_eq_natCast_iff', Nat.mod_eq_of_lt hm]

/-- Lucas's test of a modulus `m`, run with the model's `powMod`: `x` has order `m - 1`, whose factors are `qs`. -/
def lucasTest (m x : Nat) (qs : List Nat) : Bool :=
  decide (1 < m ∧ m < 32 ^ 52 ∧ qs.prod = m - 1 ∧ powMod m x (m - 1) % m = 1) &&
    qs.all fun q => decide (powMod m x ((m - 1) / q) % m ≠ 1)

theorem prime_of_lucasTest {m : Nat} (x : Nat) (small large : List Nat) (h : lucasTest m x (small ++ large) = true)
    (hsmall : ∀ q ∈ small, q.Prime) (hlarge : ∀ q ∈ large, q.Prime) : m.Prime := by
  simp only [lucasTest, Bool.and_eq_true, decide_eq_true_eq, List.all_eq_true] at h
  obtain ⟨⟨hm, hlt, hprod, hone⟩, hne⟩ := h
  refine lucas_primality m x ((powMod_mod_eq_one_iff hm (by omega)).1 hone) fun q hq hdvd hpow => ?_
  have hmem : q ∈ small ++ large := by
    rw [← hprod] at hdvd
    obtain ⟨r, hr, hqr⟩ := (hq.prime.dvd_prod_iff).1 hdvd
    have hrp : r.Prime := (List.mem_append.1 hr).elim (hsmall r) (hlarge r)
    rwa [(Nat.prime_dvd_prime_iff_eq hq hrp).1 hqr]
  have hdiv : (m - 1) / q < 32 ^ 52 := (Nat.div_le_self _ _).trans_lt (by omega)
  exact hne q hmem ((powMod_mod_eq_one_iff hm hdiv).2 hpow)

/-- `p` is prime: the factor tree of `p - 1`, from its leaves to its root (10_state.md R36). -/
theorem prime_p : Nat.Prime Config.p := by
  have h58 : Nat.Prime 173378833005251801 :=
    prime_of_lucasTest 6 [2, 2, 2, 5, 5, 2621, 24809, 13331831] [] (by decide +kernel) (by norm_num) (by simp)
  have h75 : Nat.Prime 22149492674086928081353 :=
    prime_of_lucasTest 5 [2, 2, 2, 3, 5323] [_] (by decide +kernel) (by norm_num) (List.forall_mem_singleton.2 h58)
  have h77 : Nat.Prime 132896956044521568488119 :=
    prime_of_lucasTest 6 [2, 3] [_] (by decide +kernel) (by norm_num) (List.forall_mem_singleton.2 h75)
  have h128 : Nat.Prime 255515944373312847190720520512484175977 :=
    prime_of_lucasTest 3 [2, 2, 2, 7, 7, 11, 1627, 2657, 4423, 41201, 96557, 7240687, 107590001] [] (by decide +kernel)
      (by norm_num) (by simp)
  have h237 : Nat.Prime 205115282021455665897114700593932402728804164701536103180137503955397371 :=
    prime_of_lucasTest 10 [2, 3, 5, 29, 29, 31, 7723] [_, _] (by decide +kernel) (by norm_num)
      (List.forall_mem_cons.2 ⟨h77, List.forall_mem_singleton.2 h128⟩)
  exact prime_of_lucasTest 3 [2, 3, 7, 13441] [_] (by decide +kernel) (by norm_num) (List.forall_mem_singleton.2 h237)

end Sys2Proof.Machine

/-! ## The field of `p` elements and the curve over it -/

namespace Sys2Proof.Machine

theorem powModLoop_lt {m : Nat} (x e i : Nat) {acc : Nat} (hm : 0 < m) (hacc : acc < m) : powModLoop m x e i acc < m := by
  induction i generalizing acc with
  | zero => exact hacc
  | succ i ih => exact ih (Nat.mod_lt _ hm)

theorem lt_two_pow_bitlen (k : Nat) : k < 2 ^ bitlen k := by
  unfold bitlen
  split
  · omega
  · exact Nat.lt_log2_self

/-- The field of `p` elements (00_scope.md R2). -/
abbrev Fp : Type := ZMod Config.p

section Field
variable [Fact (Nat.Prime Config.p)]

/-! The model's operations on residues are the field's. -/

theorem addP_val (x y : Fp) : addP x.val y.val = (x + y).val := (ZMod.val_add x y).symm

theorem mulP_val (x y : Fp) : mulP x.val y.val = (x * y).val := (ZMod.val_mul x y).symm

theorem subP_val (x y : Fp) : subP x.val y.val = (x - y).val := by
  rw [subP, Nat.mod_eq_of_lt y.val_lt, sub_eq_add_neg, ZMod.val_add, ZMod.neg_val', Nat.add_mod_mod]

/-- The model's inverse is the field's, 0 at 0 included. -/
theorem invP_val (x : Fp) : invP x.val = x⁻¹.val := by
  have hlt : invP x.val < Config.p := powModLoop_lt _ _ _ (by decide) (by decide)
  have hcast : (invP x.val : Fp) = x⁻¹ := by
    rw [invP, invMod, powMod_cast _ _ (by decide +kernel), ZMod.natCast_zmod_val]
    by_cases hx : x = 0
    · rw [hx, inv_zero, zero_pow (by decide)]
    · refine eq_inv_of_mul_eq_one_left ?_
      rw [← pow_succ, show Config.p - 2 + 1 = Config.p - 1 by decide +kernel, ZMod.pow_card_sub_one_eq_one hx]
  rw [← hcast, ZMod.val_natCast, Nat.mod_eq_of_lt hlt]

theorem mulP_two_val (x : Fp) : mulP 2 x.val = (2 * x).val := mulP_val 2 x

theorem mulP_three_val (x : Fp) : mulP 3 x.val = (3 * x).val := mulP_val 3 x

theorem natCast_Fp_ne_zero {k : Nat} (h0 : 0 < k) (hk : k < Config.p) : (k : Fp) ≠ 0 := by
  rw [Ne, ZMod.natCast_eq_zero_iff]
  exact Nat.not_dvd_of_pos_of_lt h0 hk

/-! ## The group law of the model on the points of the curve -/

/-- A finite point with coordinates in the field. -/
def Pt.ofCoords (x y : Fp) : Pt := .fin x.val y.val

/-- Where the line of slope `l` through `(x1, y1)` and a point with coordinate `x2` meets the curve again, reflected: the
common end of the tangent and the chord case of `add` (41_point.md R91). -/
def thirdPoint (l x1 y1 x2 : Fp) : Pt := .ofCoords (l * l - x1 - x2) (l * (x1 - (l * l - x1 - x2)) - y1)

theorem Pt.add_opposite {x y1 y2 : Fp} (h : y1 + y2 = 0) : (Pt.ofCoords x y1).add (.ofCoords x y2) = .inf := by
  simp [Pt.ofCoords, Pt.add, addP_val, h]

theorem Pt.add_tangent {x y : Fp} (h : y + y ≠ 0) :
    (Pt.ofCoords x y).add (.ofCoords x y) = thirdPoint (3 * (x * x) / (2 * y)) x y x := by
  simp only [Pt.ofCoords, thirdPoint, Pt.add, addP_val, ZMod.val_eq_zero, h, and_false, if_false, and_self, if_true]
  simp only [mulP_two_val, mulP_three_val, mulP_val, invP_val, subP_val, div_eq_mul_inv]

theorem Pt.add_chord {x1 y1 x2 y2 : Fp} (h : x1 ≠ x2) :
    (Pt.ofCoords x1 y1).add (.ofCoords x2 y2) = thirdPoint ((y2 - y1) / (x2 - x1)) x1 y1 x2 := by
  have hv : x1.val ≠ x2.val := fun e => h (ZMod.val_injective _ e)
  simp only [Pt.ofCoords, thirdPoint, Pt.add, hv, false_and, if_false]
  simp only [mulP_val, invP_val, subP_val, div_eq_mul_inv]

/-- The curve `y^2 = x^3 + 7` over the field (00_scope.md R2). -/
def curve : WeierstrassCurve.Affine Fp := { a₁ := 0, a₂ := 0, a₃ := 0, a₄ := 0, a₆ := 7 }

theorem curve_equation_iff (x y : Fp) : curve.Equation x y ↔ y ^ 2 = x ^ 3 + 7 := by
  simp [WeierstrassCurve.Affine.equation_iff, curve]

theorem curve_discriminant_ne_zero : curve.Δ ≠ 0 := by
  have h : curve.Δ = -((21168 : Nat) : Fp) := by
    simp only [WeierstrassCurve.Δ, WeierstrassCurve.b₂, WeierstrassCurve.b₄, WeierstrassCurve.b₆,
      WeierstrassCurve.b₈, curve]
    push_cast
    ring
  rw [h, neg_ne_zero]
  exact natCast_Fp_ne_zero (by decide) (by decide)

theorem curve_nonsingular_iff (x y : Fp) : curve.Nonsingular x y ↔ y ^ 2 = x ^ 3 + 7 := by
  rw [← curve_equation_iff, WeierstrassCurve.Affine.equation_iff_nonsingular_of_Δ_ne_zero curve_discriminant_ne_zero]

@[simp] theorem curve_negY (x y : Fp) : curve.negY x y = -y := by simp [curve]

/-- The model's form of a point of the curve. -/
def Pt.ofPoint : curve.Point → Pt
  | .zero => .inf
  | .some x y _ => .ofCoords x y

/-- The well-formed points of the model are the points of the curve. -/
theorem Pt.wf_iff_ofPoint (q : Pt) : q.wf = true ↔ ∃ P, Pt.ofPoint P = q := by
  have hcurve (x y : Fp) : y.val * y.val % Config.p = (x.val * x.val * x.val + 7) % Config.p ↔ y ^ 2 = x ^ 3 + 7 := by
    rw [← ZMod.natCast_eq_natCast_iff']
    push_cast [ZMod.natCast_zmod_val]
    rw [pow_two, pow_succ, pow_two]
  constructor
  · intro h
    cases q with
    | inf => exact ⟨.zero, rfl⟩
    | fin x y =>
      simp only [Pt.wf, onCurve, Bool.and_eq_true, decide_eq_true_eq] at h
      obtain ⟨⟨hx, hy⟩, hc⟩ := h
      have hxv : (x : Fp).val = x := ZMod.val_natCast_of_lt hx
      have hyv : (y : Fp).val = y := ZMod.val_natCast_of_lt hy
      have hn : curve.Nonsingular (x : Fp) (y : Fp) := by
        rw [curve_nonsingular_iff, ← hcurve, hxv, hyv, hc]
      exact ⟨.some _ _ hn, by rw [Pt.ofPoint, Pt.ofCoords, hxv, hyv]⟩
  · rintro ⟨_ | ⟨x, y, hn⟩, rfl⟩
    · rfl
    · simp [Pt.ofPoint, Pt.ofCoords, Pt.wf, onCurve, ZMod.val_lt, (hcurve x y).2 ((curve_nonsingular_iff x y).1 hn)]

/-- Two finite points of the curve are opposite, the same with a tangent, or have a chord (41_point.md R91). -/
theorem curve_addition_cases {x1 y1 x2 y2 : Fp} (h1 : curve.Nonsingular x1 y1) (h2 : curve.Nonsingular x2 y2) :
    (x1 = x2 ∧ y1 + y2 = 0) ∨ (x1 = x2 ∧ y1 = y2 ∧ y1 + y1 ≠ 0) ∨ x1 ≠ x2 := by
  by_cases hx : x1 = x2
  · by_cases hy : y1 + y2 = 0
    · exact .inl ⟨hx, hy⟩
    · have hy' : y1 ≠ curve.negY x2 y2 := by rwa [curve_negY, Ne, eq_neg_iff_add_eq_zero]
      have he : y1 = y2 := WeierstrassCurve.Affine.Y_eq_of_Y_ne h1.1 h2.1 hx hy'
      exact .inr (.inl ⟨hx, he, by rwa [← he] at hy⟩)
  · exact .inr (.inr hx)

/-- A sum of two finite points that are not opposite is the third point on their line. -/
theorem Pt.ofPoint_add_eq_thirdPoint {x1 y1 x2 y2 : Fp} (h1 : curve.Nonsingular x1 y1) (h2 : curve.Nonsingular x2 y2)
    (h : ¬(x1 = x2 ∧ y1 = curve.negY x2 y2)) :
    Pt.ofPoint (.some x1 y1 h1 + .some x2 y2 h2) = thirdPoint (curve.slope x1 x2 y1 y2) x1 y1 x2 := by
  rw [WeierstrassCurve.Affine.Point.add_some h]
  simp only [Pt.ofPoint, thirdPoint, WeierstrassCurve.Affine.addY, WeierstrassCurve.Affine.addX,
    WeierstrassCurve.Affine.negAddY, curve_negY]
  simp only [curve]
  congr 1 <;> ring

/-- The model's form of a sum of points is the sum of the forms. -/
theorem Pt.ofPoint_add (P Q : curve.Point) : Pt.ofPoint (P + Q) = (Pt.ofPoint P).add (Pt.ofPoint Q) := by
  match P, Q with
  | .zero, Q => exact congrArg Pt.ofPoint (zero_add Q)
  | .some x y h, .zero => exact congrArg Pt.ofPoint (add_zero (WeierstrassCurve.Affine.Point.some x y h))
  | .some x1 y1 h1, .some x2 y2 h2 =>
    rcases curve_addition_cases h1 h2 with ⟨rfl, hy⟩ | ⟨rfl, rfl, hy⟩ | hx
    · rw [WeierstrassCurve.Affine.Point.add_of_Y_eq rfl (by rwa [curve_negY, eq_neg_iff_add_eq_zero])]
      exact (Pt.add_opposite hy).symm
    · have hne : y1 ≠ curve.negY x1 y1 := by rwa [curve_negY, Ne, eq_neg_iff_add_eq_zero]
      rw [Pt.ofPoint_add_eq_thirdPoint _ _ fun h => hne h.2, Pt.ofPoint, Pt.add_tangent hy,
        WeierstrassCurve.Affine.slope_of_Y_ne rfl hne, curve_negY]
      congr 1
      simp only [curve]
      congr 1 <;> ring
    · rw [Pt.ofPoint_add_eq_thirdPoint _ _ fun h => hx h.1, Pt.ofPoint, Pt.ofPoint, Pt.add_chord hx,
        WeierstrassCurve.Affine.slope_of_X_ne hx, ← neg_sub y2, ← neg_sub x2, neg_div_neg_eq]

/-! ## Scalar multiples -/

/-- The double-and-add loop at a multiple `m` of the point: it appends the low `i` bits of `k` to `m`. -/
theorem smulLoop_ofPoint (k : Nat) (P : curve.Point) (i m : Nat) :
    smulLoop k (Pt.ofPoint P) i (Pt.ofPoint (m • P)) = Pt.ofPoint ((m * 2 ^ i + k % 2 ^ i) • P) := by
  induction i generalizing m with
  | zero => simp [smulLoop, Nat.mod_one]
  | succ i ih =>
    have hstep : (if k.testBit i then (Pt.ofPoint (m • P)).dbl.add (Pt.ofPoint P) else (Pt.ofPoint (m • P)).dbl) =
        Pt.ofPoint ((2 * m + (k.testBit i).toNat) • P) := by
      rw [Pt.dbl, ← Pt.ofPoint_add, ← Pt.ofPoint_add, ← two_nsmul, ← mul_nsmul', ← succ_nsmul]
      cases k.testBit i <;> rfl
    rw [smulLoop, hstep, ih, Nat.mod_pow_succ, Nat.toNat_testBit]
    congr 2
    ring

/-- Double-and-add computes the multiple of the group of the curve. -/
theorem smul_ofPoint (k : Nat) (P : curve.Point) : smul k (Pt.ofPoint P) = Pt.ofPoint (k • P) := by
  have h := smulLoop_ofPoint k P (bitlen k) 0
  rwa [zero_nsmul, zero_mul, zero_add, Nat.mod_eq_of_lt (lt_two_pow_bitlen k)] at h

/-- A multiple has one summand more than the one before it (00_scope.md R14). -/
theorem smul_succ (k : Nat) {q : Pt} (hq : q.wf = true) : smul (k + 1) q = (smul k q).add q := by
  obtain ⟨P, rfl⟩ := q.wf_iff_ofPoint.1 hq
  rw [smul_ofPoint, smul_ofPoint, succ_nsmul, Pt.ofPoint_add]

theorem smul_wf (k : Nat) {q : Pt} (hq : q.wf = true) : (smul k q).wf = true := by
  obtain ⟨P, rfl⟩ := q.wf_iff_ofPoint.1 hq
  exact (Pt.wf_iff_ofPoint _).2 ⟨k • P, (smul_ofPoint k P).symm⟩

/-- A multiple of a multiple, in either order. -/
theorem smul_smul_comm (k m : Nat) {q : Pt} (hq : q.wf = true) : smul k (smul m q) = smul m (smul k q) := by
  obtain ⟨P, rfl⟩ := q.wf_iff_ofPoint.1 hq
  simp only [smul_ofPoint, nsmul_left_comm P k m]

/-! ## The endomorphism (42_scalarmul.md R134) -/

theorem beta_cubed : (Config.beta : Fp) ^ 3 = 1 := by
  rw [← Nat.cast_pow, ← Nat.cast_one, ZMod.natCast_eq_natCast_iff']
  decide +kernel

theorem beta_ne_zero : (Config.beta : Fp) ≠ 0 := natCast_Fp_ne_zero (by decide) (by decide)

theorem beta_sq : (Config.beta : Fp) ^ 2 = (Config.beta : Fp)⁻¹ :=
  eq_inv_of_mul_eq_one_left (by rw [← pow_succ, beta_cubed])

theorem Pt.phi_ofCoords (x y : Fp) : (Pt.ofCoords x y).phi = .ofCoords (Config.beta * x) y := by
  have hb : (Config.beta : Fp).val = Config.beta := ZMod.val_natCast_of_lt (by decide)
  rw [Pt.ofCoords, Pt.phi, Pt.ofCoords, ← mulP_val, hb]

/-- `phi` maps curve points to curve points, for `beta` is a cube root of 1. -/
theorem Pt.phi_wf {q : Pt} (hq : q.wf = true) : q.phi.wf = true := by
  obtain ⟨_ | ⟨x, y, h⟩, rfl⟩ := q.wf_iff_ofPoint.1 hq
  · rfl
  · have hn : curve.Nonsingular (Config.beta * x) y := by
      rw [curve_nonsingular_iff] at h ⊢
      rw [mul_pow, beta_cubed, one_mul, h]
    exact (Pt.wf_iff_ofPoint _).2 ⟨.some _ _ hn, (Pt.phi_ofCoords x y).symm⟩

/-- `phi` scales the slope of a line by the inverse of `beta`, which is its square. -/
theorem phi_thirdPoint (l x1 y1 x2 : Fp) :
    (thirdPoint l x1 y1 x2).phi =
      thirdPoint (Config.beta ^ 2 * l) (Config.beta * x1) y1 (Config.beta * x2) := by
  rw [thirdPoint, thirdPoint, Pt.phi_ofCoords]
  congr 1
  · linear_combination (-Config.beta * l ^ 2) * beta_cubed
  · linear_combination (l ^ 3 * (Config.beta ^ 3 + 1) - l * (2 * x1 + x2)) * beta_cubed

/-- `phi` is a homomorphism: it keeps each of the three cases of the group law. -/
theorem Pt.phi_add {q1 q2 : Pt} (h1 : q1.wf = true) (h2 : q2.wf = true) : (q1.add q2).phi = q1.phi.add q2.phi := by
  obtain ⟨P, rfl⟩ := q1.wf_iff_ofPoint.1 h1
  obtain ⟨Q, rfl⟩ := q2.wf_iff_ofPoint.1 h2
  match P, Q with
  | .zero, Q => rfl
  | .some x y h, .zero => rfl
  | .some x1 y1 h1, .some x2 y2 h2 =>
    simp only [Pt.ofPoint, Pt.phi_ofCoords]
    rcases curve_addition_cases h1 h2 with ⟨rfl, hy⟩ | ⟨rfl, rfl, hy⟩ | hx
    · rw [Pt.add_opposite hy, Pt.add_opposite hy, Pt.phi]
    · rw [Pt.add_tangent hy, Pt.add_tangent hy, phi_thirdPoint]
      congr 1
      ring
    · have hbx : Config.beta * x1 ≠ Config.beta * x2 := fun h => hx (mul_left_cancel₀ beta_ne_zero h)
      rw [Pt.add_chord hx, Pt.add_chord hbx, phi_thirdPoint, ← mul_sub, beta_sq, div_mul_eq_div_div_swap]
      congr 1
      rw [inv_mul_eq_div]

/-- `phi` commutes with every multiple. -/
theorem phi_smul (k : Nat) {q : Pt} (hq : q.wf = true) : (smul k q).phi = smul k q.phi := by
  induction k with
  | zero => rfl
  | succ k ih => rw [smul_succ k hq, smul_succ k (Pt.phi_wf hq), Pt.phi_add (smul_wf k hq) hq, ih]

end Field

/-! ## The order of the generator and its image under `phi`, computed -/

theorem smul_n_gen : smul Config.n Pt.gen = .inf := by decide +kernel

theorem smul_lambda_gen : smul Config.lambda Pt.gen = Pt.gen.phi := by decide +kernel

/-- Settles O43: the curve points are the points of Mathlib's curve over the field of `p` elements, whose group gives the
`k`-fold sum; `phi` is a homomorphism, so its value at the generator gives its value at every multiple. -/
theorem scalarMultipleIsRepeatedAddition : Obligations.ScalarMultipleIsRepeatedAddition := by
  have : Fact (Nat.Prime Config.p) := ⟨prime_p⟩
  have hgen : Pt.gen.wf = true := by decide +kernel
  refine ⟨fun q hq => ⟨rfl, fun k => smul_succ k hq⟩, smul_n_gen, fun k => ?_⟩
  rw [phi_smul k hgen, ← smul_lambda_gen, smul_smul_comm k Config.lambda hgen]

end Sys2Proof.Machine

/-! ## The lengths of what the commands store to DBUF -/

namespace Sys2Proof.Machine

@[simp] theorem length_tobe (v len : Nat) : (tobe v len).length = len := by
  induction len with
  | zero => rfl
  | succ len ih => simp [tobe, ih]

@[simp] theorem length_tole (v len : Nat) : (tole v len).length = len := by
  induction len generalizing v with
  | zero => rfl
  | succ len ih => simp [tole, ih]

@[simp] theorem length_zeros (len : Nat) : (zeros len).length = len := List.length_replicate

/-- A SEC1 string has the length its command asks for, 33 or 65 (41_point.md R104). -/
theorem length_sec1Encode (x y : Nat) {len : Nat} (h : len = 33 ∨ len = 65) : (sec1Encode x y len).length = len := by
  rcases h with rfl | rfl <;> simp [sec1Encode]

/-- A digest has the length of its algorithm (44_hash.md R191, 45_hash_cores.md R229). -/
@[simp] theorem length_pack (alg : HashAlg) (h : Vector Word64 8) : (pack alg h).length = digestLen alg := by
  cases alg <;> simp [pack, packWord, chainWords, digestLen]

@[simp] theorem length_finalize (hc : HashCtx) : (finalize hc).length = digestLen hc.alg := length_pack _ _

@[simp] theorem length_hash (alg : HashAlg) (msg : List Byte) : (hash alg msg).length = digestLen alg := length_pack _ _

theorem length_wnafLoop_le (w fuel k : Nat) : (wnafLoop w fuel k).length ≤ fuel := by
  induction fuel generalizing k with
  | zero => rfl
  | succ fuel ih =>
    unfold wnafLoop
    split
    · exact Nat.zero_le _
    · exact Nat.succ_le_succ (ih _)

theorem bitlen_le {x b : Nat} (h : x < 2 ^ b) : bitlen x ≤ b := by
  unfold bitlen
  split
  · exact Nat.zero_le _
  · exact (Nat.log2_lt ‹_›).2 h

/-- The digits of a register fit DBUF (42_scalarmul.md R132 (e), R133). -/
theorem length_wnaf_natR_le (s : State) (i : RIdx) (w : Nat) : (wnaf (s.natR i) w).length ≤ Config.dbufBytes :=
  calc (wnaf (s.natR i) w).length ≤ bitlen (s.natR i) + 1 := length_wnafLoop_le _ _ _
    _ ≤ 256 + 1 := Nat.succ_le_succ (bitlen_le (natR_lt s i))
    _ ≤ Config.dbufBytes := by decide

/-! ## The frame of a command (10_state.md R27) -/

/-- What the command `i`, issued in `s`, has left of the state in `t`: registers outside its destinations, flags, the hash
context and the hidden cache of a command that does not write them; and DBUF holds exactly what it held, or that with one
byte string stored in the command's range. -/
structure Frame (i : Instr) (s t : State) : Prop where
  int : ∀ k, k ∉ intDests i → t.getR k = s.getR k
  affine : ∀ k, k ∉ affineDests i → t.getA k = s.getA k
  jacobian : ∀ k, k ∉ jacDests i → t.getJ k = s.getJ k
  flagT : writesT i = false → t.flags.t = s.flags.t
  halfSigns : writesHalfSigns i = false → t.flags.n1 = s.flags.n1 ∧ t.flags.n2 = s.flags.n2
  hash : writesHash i = false → t.hc = s.hc ∧ t.hkey = s.hkey
  cache : fillsCache i = false → t.wnafCache = s.wnafCache
  buffer : t.dbuf = s.dbuf ∨ ∃ bs, bs.length = (storeRange i s).2 ∧ (storeRange i s).1 + bs.length ≤ Config.dbufBytes ∧
    t.dbuf = s.dbuf.writeBytes (storeRange i s).1 bs

namespace Frame
variable {i : Instr} {s t : State}

/-! Each write of a state keeps the frame, if it is one of the command's. -/

theorem refl (i : Instr) (s : State) : Frame i s s :=
  ⟨fun _ _ => rfl, fun _ _ => rfl, fun _ _ => rfl, fun _ => rfl, fun _ => ⟨rfl, rfl⟩, fun _ => ⟨rfl, rfl⟩,
    fun _ => rfl, .inl rfl⟩

theorem faultEntry (h : Frame i s t) (e : ErrCode) (w : Word32) : Frame i s (faultEntry e w t) := { h with }

theorem setR (h : Frame i s t) {rd : RIdx} (hrd : rd ∈ intDests i) (v : Word) : Frame i s (t.setR rd v) :=
  { h with int := fun k hk => (getR_setR_of_ne t (ne_of_mem_of_not_mem hrd hk).symm v).trans (h.int k hk) }

theorem setA (h : Frame i s t) {ad : AIdx} (had : ad ∈ affineDests i) (q : APoint) : Frame i s (t.setA ad q) :=
  { h with affine := fun k hk => (getA_setA_of_ne t (ne_of_mem_of_not_mem had hk).symm q).trans (h.affine k hk) }

theorem setJ (h : Frame i s t) {jd : JIdx} (hjd : jd ∈ jacDests i) (q : JPoint) : Frame i s (t.setJ jd q) :=
  { h with jacobian := fun k hk => (getJ_setJ_of_ne t (ne_of_mem_of_not_mem hjd hk).symm q).trans (h.jacobian k hk) }

theorem setT (h : Frame i s t) (hi : writesT i = true) (b : Bool) : Frame i s (t.setT b) :=
  { h with flagT := fun hn => nomatch hi.symm.trans hn }

theorem setHalfSigns (h : Frame i s t) (hi : writesHalfSigns i = true) (k1 k2 : Int) : Frame i s (t.setHalfSigns k1 k2) :=
  { h with halfSigns := fun hn => nomatch hi.symm.trans hn }

theorem setHash (h : Frame i s t) (hi : writesHash i = true) (hc : HashCtx) (key : Vector Byte 128) :
    Frame i s (t.setHash hc key) :=
  { h with hash := fun hn => nomatch hi.symm.trans hn }

theorem touchTables (h : Frame i s t) (hi : fillsCache i = true) (terms : List (Nat × Pt)) :
    Frame i s (t.touchTables terms) := by
  obtain ⟨c, hc⟩ := touchTables_eq t terms
  rw [hc]
  exact { h with cache := fun hn => nomatch hi.symm.trans hn }

theorem touchTable (h : Frame i s t) (hi : fillsCache i = true) (w : Nat) (q : Pt) : Frame i s (t.touchTable w q) := by
  cases q with
  | inf => exact h
  | fin x y => exact { h with cache := fun hn => nomatch hi.symm.trans hn }

/-- The one store of a command, a string of the length its range has. -/
theorem memWrite {bs : List Byte} (hlen : bs.length = (storeRange i s).2)
    (hfit : (storeRange i s).1 + (storeRange i s).2 ≤ Config.dbufBytes) : Frame i s (s.memWrite (storeRange i s).1 bs) :=
  { refl i s with buffer := .inr ⟨bs, hlen, hlen ▸ hfit, rfl⟩ }

end Frame

/-! ## Every command keeps its frame -/

/-- A test or an operand before the rest of a rule: the rest runs only on what the test let through. -/
theorem ensures_bind_of_ok {α : Type} {P : State → Prop} {m : Except ErrCode α} {f : α → Except ErrCode State}
    (h : ∀ x, m = .ok x → Ensures P (f x)) : Ensures P (m >>= f) := by
  intro t ht
  obtain ⟨x, hm, hx⟩ := bind_eq_ok.1 ht
  exact h x hm t hx

/-- The rule of a command runs only when the command is well formed (log entry 8). -/
theorem command_endsWith_of_wellFormed {P : State → Prop} {i : Instr} {s : State} {rule : Except ErrCode State}
    (h : i.wellFormed = true → Ensures P rule) : EndsWith P i s (command i s rule) := by
  cases hw : i.wellFormed with
  | true => exact command_endsWith (h hw)
  | false => exact ⟨_, command_illegal hw, .inr ⟨_, rfl⟩⟩

theorem EndsWith.mono {P Q : State → Prop} {i : Instr} {s : State} {o : Host.Outcome State Fault Refusal}
    (h : EndsWith P i s o) (hPQ : ∀ t, P t → Q t) : EndsWith Q i s o := by
  obtain ⟨t, ho, hP⟩ := h
  exact ⟨t, ho, hP.imp_left (hPQ t)⟩

/-- What a command ensures, and fault entry keeps, holds of its next state. -/
theorem EndsWith.of_next {P : State → Prop} {i : Instr} {s t : State} {o : Host.Outcome State Fault Refusal}
    (h : EndsWith P i s o) (hf : ∀ e, P (faultEntry e (encode i) s)) (ho : o = .next t) : P t := by
  obtain ⟨u, hu, hP⟩ := h
  cases hu.symm.trans ho
  rcases hP with hP | ⟨e, rfl⟩
  · exact hP
  · exact hf e

theorem penc_wellFormed {aa : AIdx} {off : Off} {len : Byte} (h : (Instr.penc aa off len).wellFormed = true) :
    len.toNat = 33 ∨ len.toNat = 65 := by
  by_contra hn
  simp [Instr.wellFormed, Instr.check, pencLenOk, hn] at h

/-- The common end of the four digest commands: the range test, the store, and the context destroyed (44_hash.md R196). -/
theorem ensures_frame_digest {i : Instr} {s : State} {bs : List Byte} (hi : writesHash i = true)
    (hlen : bs.length = (storeRange i s).2) :
    Ensures (Frame i s) (checkBuf (storeRange i s).1 (storeRange i s).2 >>= fun _ =>
      .ok ((s.memWrite (storeRange i s).1 bs).destroyHash)) :=
  ensures_bind_of_ok fun _ hbuf => ensures_ok ((Frame.memWrite hlen (checkBuf_eq_ok.1 hbuf)).setHash hi _ _)

/-- Every command ends in its frame, or by fault entry. The cases are grouped by the destination and by how many tests a rule
makes before its writes. -/
theorem exec_endsWith_frame (i : Instr) (s : State) : EndsWith (Frame i s) i s (exec i s) := by
  have base := Frame.refl i s
  cases i
  case nop => exact command_endsWith (ensures_ok base)
  -- integer destinations
  case mov | ldi | ldc | redp | redn | truncn => exact command_endsWith (ensures_ok (base.setR List.mem_cons_self _))
  case ldbe | pgetx | pgety | powp | drbgk =>
    exact command_endsWith (ensures_bind fun _ => ensures_ok (base.setR List.mem_cons_self _))
  case addp | subp | mulp | invp | muln | invn =>
    exact command_endsWith (ensures_bind fun _ => ensures_bind fun _ => ensures_ok (base.setR List.mem_cons_self _))
  case sqrtp rd ra =>
    refine command_endsWith (ensures_bind fun x => ?_)
    cases sqrtp x with
    | none => exact ensures_ok (base.setT rfl _)
    | some t => exact ensures_ok ((base.setR List.mem_cons_self _).setT rfl _)
  case sign =>
    exact command_endsWith (ensures_bind fun _ => ensures_bind fun _ => ensures_ok
      ((base.setR List.mem_cons_self _).setR (List.mem_cons_of_mem _ List.mem_cons_self) _))
  case glvsplit =>
    exact command_endsWith (ensures_bind fun _ => ensures_ok
      (((base.setR List.mem_cons_self _).setR (List.mem_cons_of_mem _ List.mem_cons_self) _).setHalfSigns rfl _ _))
  -- point destinations
  case pmov | pldg | pinf => exact command_endsWith (ensures_ok (base.setA List.mem_cons_self _))
  case pdbl | pneg | pfromx | jtoa | pendo =>
    exact command_endsWith (ensures_bind fun _ => ensures_ok (base.setA List.mem_cons_self _))
  case pset | padd | pdec =>
    exact command_endsWith (ensures_bind fun _ => ensures_bind fun _ => ensures_ok (base.setA List.mem_cons_self _))
  case pmul =>
    exact command_endsWith (ensures_bind fun _ => ensures_ok ((base.setA List.mem_cons_self _).touchTable rfl _ _))
  case pmuladd =>
    exact command_endsWith (ensures_bind fun _ => ensures_bind fun _ => ensures_ok
      ((base.setA List.mem_cons_self _).touchTables rfl _))
  case jmov => exact command_endsWith (ensures_ok (base.setJ List.mem_cons_self _))
  case jfroma | jdbl | jneg => exact command_endsWith (ensures_bind fun _ => ensures_ok (base.setJ List.mem_cons_self _))
  case jadd =>
    exact command_endsWith (ensures_bind fun _ => ensures_bind fun _ => ensures_ok (base.setJ List.mem_cons_self _))
  -- the test flag
  case pvalid => exact command_endsWith (ensures_bind fun _ => ensures_ok (base.setT rfl _))
  case peq | verify =>
    exact command_endsWith (ensures_bind fun _ => ensures_bind fun _ => ensures_ok (base.setT rfl _))
  -- the hash context
  case hinit => exact command_endsWith (ensures_ok (base.setHash rfl _ _))
  case hmacinit => exact command_endsWith (ensures_bind fun _ => ensures_ok (base.setHash rfl _ _))
  case hupdate =>
    exact command_endsWith (ensures_bind fun _ => ensures_bind fun _ => ensures_bind fun _ => ensures_ok
      (base.setHash rfl _ _))
  -- DBUF
  case stbe rs off len =>
    refine command_endsWith (ensures_bind_of_ok fun _ hbuf => ensures_bind fun _ => ensures_ok ?_)
    exact Frame.memWrite (i := .stbe rs off len) (length_tobe _ _) (checkBuf_eq_ok.1 hbuf)
  case penc aa off len =>
    refine command_endsWith_of_wellFormed fun hw => ensures_bind_of_ok fun _ hbuf => ensures_bind fun _ =>
      ensures_bind fun _ => ensures_ok ?_
    exact Frame.memWrite (i := .penc aa off len) (length_sec1Encode _ _ (penc_wellFormed hw)) (checkBuf_eq_ok.1 hbuf)
  case wnaf rd ra w =>
    have hfit : 0 + (wnaf (s.natR ra) w.toNat).length ≤ Config.dbufBytes := by
      rw [Nat.zero_add]
      exact length_wnaf_natR_le s ra w.toNat
    exact command_endsWith (ensures_ok
      ((Frame.memWrite (i := .wnaf rd ra w) (List.length_map _) hfit).setR List.mem_cons_self _))
  case hdigest off =>
    exact command_endsWith (ensures_bind fun _ => ensures_frame_digest (i := .hdigest off) rfl (length_finalize _))
  case hdigestH256 off =>
    exact command_endsWith (ensures_bind fun _ => ensures_bind fun _ =>
      ensures_frame_digest (i := .hdigestH256 off) rfl (length_hash _ _))
  case hdigestH160 off =>
    exact command_endsWith (ensures_bind fun _ => ensures_bind fun _ =>
      ensures_frame_digest (i := .hdigestH160 off) rfl (length_hash _ _))
  case hmacfinal off =>
    exact command_endsWith (ensures_bind fun _ => ensures_frame_digest (i := .hmacfinal off) rfl (length_hash _ _))

theorem exec_frame {i : Instr} {s t : State} (h : exec i s = .next t) : Frame i s t :=
  (exec_endsWith_frame i s).of_next (fun e => (Frame.refl i s).faultEntry e _) h

/-- Settles O16: the integer registers of the frame. -/
theorem frameIntegerRegisters : Obligations.FrameIntegerRegisters := fun _ _ _ h => (exec_frame h).int

/-- Settles O17: the two point files of the frame. -/
theorem framePointRegisters : Obligations.FramePointRegisters := fun _ _ _ h =>
  ⟨(exec_frame h).affine, (exec_frame h).jacobian⟩

/-- Settles O18: the flags of the frame. -/
theorem frameFlags : Obligations.FrameFlags := fun _ _ _ h => ⟨(exec_frame h).flagT, (exec_frame h).halfSigns⟩

/-- Settles O20: the hash context, the key and the cache of the frame. -/
theorem frameHashContextAndCache : Obligations.FrameHashContextAndCache := fun _ _ _ h =>
  ⟨(exec_frame h).hash, (exec_frame h).cache⟩

end Sys2Proof.Machine

/-! ## Reset -/

namespace Sys2Proof.Machine

/-- The step that serves a write to `CTRL` is the write, in the state whose queue has lost it. -/
theorem step_write_ctrl {s : State} {w : Word32} {rest : List HostEvent} (h : s.hostIn = .write 0x014 w :: rest) :
    step s = .next (writeCtrl w { s with hostIn := rest }) := by
  rw [step, h]
  rfl

theorem step_hardReset {s : State} {rest : List HostEvent} (h : s.hostIn = .hardReset :: rest) :
    step s = .next (resetBlock { s with hostIn := rest }) := by
  rw [step, h]
  rfl

theorem writeCtrl_srst {w : Word32} (h : w.getLsbD 1 = true) (s : State) : writeCtrl w s = resetBlock s := if_pos h

/-- The block's reset gives the table of 10_state.md R38, from every state. -/
theorem resetValues_resetBlock (s : State) : ResetValues (resetBlock s) where
  r i := by simp [State.getR, State.reset]
  a i := by simp [State.getA, State.reset]
  j i := by simp [State.getJ, State.reset]
  flags := rfl
  status := rfl
  err := rfl
  errcmd := rfl
  active := rfl
  hmac := rfl
  alg := rfl
  h i := by simp [State.reset, HashCtx.idle]
  hlen := rfl
  npend := rfl
  pend i := by simp [State.reset, HashCtx.idle]
  hkey i := by simp [State.reset]
  dbuf _ := rfl
  cache := rfl

/-- Settles O10: both resets are the block's reset, and the state after reset is the block's reset of itself. -/
theorem resetGivesTheResetValues : Obligations.ResetGivesTheResetValues := by
  refine ⟨fun s rest h => ⟨_, step_hardReset h, resetValues_resetBlock _⟩, fun s w rest h hw => ?_,
    resetValues_resetBlock State.reset⟩
  rw [step_write_ctrl h, writeCtrl_srst hw]
  exact ⟨_, rfl, resetValues_resetBlock _⟩

/-- The block's reset meets the invariant: an empty buffer and cache, no fault, the idle context and a key of zeros. -/
theorem inv_resetBlock (s : State) : Inv (resetBlock s) where
  memory := rfl
  faultRecord := rfl
  hash := by simp [State.reset, hashOk, HashCtx.idle]
  hkey := by simp [State.reset, hkeyOk, HashCtx.idle, Vector.toList_replicate]
  cache := by simp [cacheOk, State.reset]

/-- Settles O21: the state after reset is the block's reset of itself. -/
theorem resetMeetsTheInvariant : Obligations.ResetMeetsTheInvariant := inv_resetBlock State.reset

/-! ## What the host reads -/

/-- A bit of a word put together as a number. -/
theorem getLsbD_ofNat_eq {x i : Nat} {b : Bool} (hi : i < 32) (h : x / 2 ^ i % 2 = b.toNat) :
    (BitVec.ofNat 32 x).getLsbD i = b := by
  rw [BitVec.getLsbD_ofNat, decide_eq_true hi, Bool.true_and, Nat.testBit_eq_decide_div_mod_eq, h]
  cases b <;> rfl

/-- A field of a word put together as a number. -/
theorem toNat_extractLsb'_ofNat {x i n : Nat} (hin : i + n ≤ 32) :
    ((BitVec.ofNat 32 x).extractLsb' i n).toNat = x / 2 ^ i % 2 ^ n := by
  rw [← BitVec.toNat_ofNat (x / 2 ^ i) n]
  refine congrArg BitVec.toNat (BitVec.eq_of_getLsbD_eq fun k hk => ?_)
  have hik : i + k < 32 := by omega
  rw [BitVec.getLsbD_extractLsb', BitVec.getLsbD_ofNat, BitVec.getLsbD_ofNat, Nat.testBit_div_two_pow, Nat.add_comm k,
    decide_eq_true hik, Bool.true_and]

theorem extractLsb'_ofNat_eq {x i n : Nat} {v : BitVec n} (hin : i + n ≤ 32) (h : x / 2 ^ i % 2 ^ n = v.toNat) :
    (BitVec.ofNat 32 x).extractLsb' i n = v :=
  BitVec.eq_of_toNat_eq ((toNat_extractLsb'_ofNat hin).trans h)

theorem extractLsb'_ofNat_eq_zero {x i n : Nat} (hin : i + n ≤ 32) (h : x / 2 ^ i % 2 ^ n = 0) :
    (BitVec.ofNat 32 x).extractLsb' i n = 0 :=
  extractLsb'_ofNat_eq hin (h.trans BitVec.toNat_zero.symm)

theorem algCode_lt_four (alg : HashAlg) : alg.code < 4 := by cases alg <;> decide

/-- Bit `b` of word `k` of a 256-bit field (20_memory.md R42). -/
theorem getWord_getLsbD (v : Word) (k : Fin 8) {b : Nat} (hb : b < 32) :
    (getWord v k).getLsbD b = v.getLsbD (32 * k.val + b) := by
  simp [getWord, hb]

/-- `FLAGS`: three bits, zero above (10_state.md R31). -/
theorem flagsWord_fields (s : State) :
    s.flagsWord.getLsbD 0 = s.flags.t ∧ s.flagsWord.getLsbD 1 = s.flags.n1 ∧ s.flagsWord.getLsbD 2 = s.flags.n2 ∧
    s.flagsWord.extractLsb' 3 29 = 0 := by
  have ht := s.flags.t.toNat_lt
  have h1 := s.flags.n1.toNat_lt
  have h2 := s.flags.n2.toNat_lt
  exact ⟨getLsbD_ofNat_eq (by decide) (by omega), getLsbD_ofNat_eq (by decide) (by omega),
    getLsbD_ofNat_eq (by decide) (by omega), extractLsb'_ofNat_eq_zero (by decide) (by omega)⟩

/-- `STATUS`: the fault record, the view of the hash context, and zero between and above (R32). -/
theorem statusWord_fields (s : State) :
    s.statusWord.getLsbD 0 = s.err ∧ s.statusWord.extractLsb' 1 7 = 0 ∧ s.statusWord.extractLsb' 8 8 = s.errcode ∧
    s.statusWord.getLsbD 16 = s.hc.active ∧ s.statusWord.getLsbD 17 = s.hc.hmac ∧
    (s.statusWord.extractLsb' 18 2).toNat = s.hc.alg.code ∧ s.statusWord.extractLsb' 20 12 = 0 := by
  have he := s.err.toNat_lt
  have hcode := s.errcode.isLt
  have ha := s.hc.active.toNat_lt
  have hh := s.hc.hmac.toNat_lt
  have halg := algCode_lt_four s.hc.alg
  refine ⟨getLsbD_ofNat_eq (by decide) (by omega), extractLsb'_ofNat_eq_zero (by decide) (by omega),
    extractLsb'_ofNat_eq (by decide) (by omega), getLsbD_ofNat_eq (by decide) (by omega),
    getLsbD_ofNat_eq (by decide) (by omega), ?_, extractLsb'_ofNat_eq_zero (by decide) (by omega)⟩
  exact (toNat_extractLsb'_ofNat (by decide)).trans (by omega)

/-- `HCTL`: the hash context's state, and zero between and above (20_memory.md R44). -/
theorem hctlWord_fields (s : State) :
    s.hctlWord.getLsbD 0 = s.hc.active ∧ s.hctlWord.getLsbD 1 = s.hc.hmac ∧
    (s.hctlWord.extractLsb' 2 2).toNat = s.hc.alg.code ∧ s.hctlWord.extractLsb' 4 4 = 0 ∧
    s.hctlWord.extractLsb' 8 7 = s.hc.npend ∧ s.hctlWord.extractLsb' 15 17 = 0 := by
  have ha := s.hc.active.toNat_lt
  have hh := s.hc.hmac.toNat_lt
  have halg := algCode_lt_four s.hc.alg
  have hn := s.hc.npend.isLt
  refine ⟨getLsbD_ofNat_eq (by decide) (by omega), getLsbD_ofNat_eq (by decide) (by omega), ?_,
    extractLsb'_ofNat_eq_zero (by decide) (by omega), extractLsb'_ofNat_eq (by decide) (by omega),
    extractLsb'_ofNat_eq_zero (by decide) (by omega)⟩
  exact (toNat_extractLsb'_ofNat (by decide)).trans (by omega)

/-- The bytes of `PEND` (R44). -/
theorem readLoc_pend_byte (s : State) (m : Fin 32) (b : Fin 4) :
    (readLoc s (.pend m)).extractLsb' (8 * b.val) 8 = s.hc.pend[4 * m.val + b.val] := by
  have h := laneWord_byte (fun b => s.hc.pend.toList.getD (4 * m.val + b.val) 0) b
  have hlt : 4 * m.val + b.val < 128 := by omega
  exact h.trans (by simp [hlt])

/-- The bytes of DBUF (R42, R44). -/
theorem readLoc_dbuf_byte (s : State) (m : Fin 128) (b : Fin 4) :
    (readLoc s (.dbuf m)).extractLsb' (8 * b.val) 8 = s.dbuf.read (4 * m.val + b.val) :=
  laneWord_byte (fun b => s.dbuf.read (4 * m.val + b.val)) b

theorem readLoc_ainf (s : State) (i : Fin 8) : readLoc s (.ainf i) = if (s.getA i).inf then 1 else 0 := by
  simp only [readLoc]
  cases (s.getA i).inf <;> rfl

/-- Settles O15, register by register. -/
theorem statusRegistersReadTheirBits : Obligations.StatusRegistersReadTheirBits := by
  intro s
  obtain ⟨ht, hn1, hn2, hf⟩ := flagsWord_fields s
  obtain ⟨herr, hs1, hcode, hact, hmac, halg, hs20⟩ := statusWord_fields s
  obtain ⟨hact', hmac', halg', hc4, hpend, hc15⟩ := hctlWord_fields s
  exact ⟨ht, hn1, hn2, hf, herr, hs1, hcode, hact, hmac, halg, hs20, rfl, hact', hmac', halg', hc4, hpend, hc15, rfl, rfl,
    fun _ => ⟨rfl, rfl⟩, readLoc_pend_byte s, readLoc_dbuf_byte s, readLoc_ainf s, fun k b hb =>
      ⟨fun _ => getWord_getLsbD _ k hb, fun _ => ⟨getWord_getLsbD _ k hb, getWord_getLsbD _ k hb, getWord_getLsbD _ k hb,
        getWord_getLsbD _ k hb, getWord_getLsbD _ k hb⟩⟩⟩

end Sys2Proof.Machine

/-! ## The hash context and the HMAC key keep their invariant -/

namespace Sys2Proof.Machine

/-- The invariant's part about the hash unit: the context and the HMAC key (10_state.md R34, R35). -/
def HashUnitOk (s : State) : Prop := hashOk s.hc = true ∧ hkeyOk s = true

theorem hashOk_iff_of_active {hc : HashCtx} (h : hc.active = true) :
    hashOk hc = true ↔ hc.npend.toNat = hc.hlen.toNat % blockSize hc.alg ∧ hc.hlen.toNat < 2 ^ 61 ∧ chainOk hc = true ∧
      ∀ b ∈ hc.pend.toList.drop hc.npend.toNat, b = 0 := by
  simp [hashOk, h, and_assoc]

theorem hkeyOk_iff_of_hmac {s : State} (ha : s.hc.active = true) (hm : s.hc.hmac = true) :
    hkeyOk s = true ↔ ∀ b ∈ s.hkey.toList.drop (blockSize s.hc.alg), b = 0 := by
  simp [hkeyOk, ha, hm]

/-- A key of zeros is right for every context. -/
theorem hkeyOk_of_zero {s : State} (h : ∀ b ∈ s.hkey.toList, b = 0) : hkeyOk s = true := by
  have hall (bs : List Byte) (hb : ∀ b ∈ bs, b = 0) : (bs.all fun b => decide (b = 0)) = true := by simpa using hb
  unfold hkeyOk
  split
  · exact hall _ fun b hb => h b (List.mem_of_mem_drop hb)
  · exact hall _ h

/-- The key test reads the tags and the algorithm of the context, and the key. -/
theorem hkeyOk_congr {s t : State} (ha : t.hc.active = s.hc.active) (hm : t.hc.hmac = s.hc.hmac)
    (halg : t.hc.alg = s.hc.alg) (hk : t.hkey = s.hkey) : hkeyOk t = hkeyOk s := by
  rw [hkeyOk, hkeyOk, ha, hm, halg, hk]

theorem HashUnitOk.congr {s t : State} (h : HashUnitOk s) (hhc : t.hc = s.hc) (hk : t.hkey = s.hkey) : HashUnitOk t :=
  ⟨hhc ▸ h.1, (hkeyOk_congr (by rw [hhc]) (by rw [hhc]) (by rw [hhc]) hk).trans h.2⟩

/-- Behind its bytes, a padded string is zero. -/
theorem pad128_drop_zero {bs : List Byte} {len : Nat} (h : bs.length ≤ len) :
    ∀ b ∈ (pad128 bs).toList.drop len, b = 0 := by
  intro b hb
  have hmem : b ∈ (bs ++ zeros 128).drop len := (List.take_sublist 128 _).drop len |>.subset hb
  rw [List.drop_append, List.drop_eq_nil_of_le h, List.nil_append] at hmem
  exact List.eq_of_mem_replicate (List.mem_of_mem_drop hmem)

/-- 32-bit words in their cells leave the high halves zero (10_state.md R34). -/
theorem all_cells_lt (ws : List Word32) :
    ((ws.map (·.setWidth 64)).all fun x : Word64 => decide (x.toNat < 2 ^ 32)) = true := by
  rw [List.all_map, List.all_eq_true]
  refine fun x _ => decide_eq_true ?_
  rw [BitVec.toNat_setWidth_of_le (by decide)]
  exact x.isLt

/-- SHA-256 ends in 32-bit words (45_hash_cores.md R222). -/
theorem compressSha256_toList (h : Vector Word64 8) (block : List Byte) :
    ∃ ws : List Word32, (compressSha256 h block).toList = ws.map (·.setWidth 64) :=
  ⟨[_, _, _, _, _, _, _, _], rfl⟩

/-- A chaining value of five words: their cells, and three zeros (10_state.md R34). -/
theorem chainOk_of_cells5 {hc : HashCtx} {v : Vars5} (halg : hc.alg = .rmd160 ∨ hc.alg = .sha1) (hh : hc.h = cells5 v) :
    chainOk hc = true := by
  have hused : hc.h.toList.take 5 = [v.a, v.b, v.c, v.d, v.e].map (·.setWidth 64) := hh ▸ rfl
  have hunused : hc.h.toList.drop 5 = [0, 0, 0] := hh ▸ rfl
  rcases halg with halg | halg <;> simp only [chainOk, halg, hused, hunused, all_cells_lt] <;> rfl

/-- The chaining words of every core have the width of their algorithm (10_state.md R34, 45_hash_cores.md R220). -/
theorem chainOk_of_compress {hc : HashCtx} {h : Vector Word64 8} {block : List Byte} (hh : hc.h = compress hc.alg h block) :
    chainOk hc = true := by
  cases halg : hc.alg with
  | sha256 =>
    obtain ⟨ws, hws⟩ := compressSha256_toList h block
    rw [halg] at hh
    simp only [chainOk, halg, hh, compress, hws, all_cells_lt]
  | sha512 => simp [chainOk, halg]
  | rmd160 => exact chainOk_of_cells5 (.inl halg) (hh.trans (by rw [halg]; rfl))
  | sha1 => exact chainOk_of_cells5 (.inr halg) (hh.trans (by rw [halg]; rfl))

theorem chainOk_compressBlocks {hc : HashCtx} (count : Nat) {h : Vector Word64 8} (buf : List Byte)
    (hok : chainOk { hc with h := h } = true) : chainOk { hc with h := compressBlocks hc.alg count h buf } = true := by
  induction count generalizing h buf with
  | zero => exact hok
  | succ count ih => exact ih _ (chainOk_of_compress rfl)

/-- The test of the chaining words reads the algorithm and the words. -/
theorem chainOk_congr {hc hc' : HashCtx} (halg : hc'.alg = hc.alg) (hh : hc'.h = hc.h) : chainOk hc' = chainOk hc := by
  rw [chainOk, chainOk, halg, hh]

theorem blockSize_pos (alg : HashAlg) : 0 < blockSize alg := by cases alg <;> decide

theorem blockSize_le (alg : HashAlg) : blockSize alg ≤ 128 := by cases alg <;> decide

theorem digestLen_le_blockSize (alg : HashAlg) : digestLen alg ≤ blockSize alg := by cases alg <;> decide

theorem length_pending (hc : HashCtx) : hc.pending.length = hc.npend.toNat := by
  have h : hc.npend.toNat ≤ 128 := hc.npend.isLt.le
  simp [HashCtx.pending, h]

/-- A fresh context is a right one: the initial values have the width of their algorithm (44_hash.md R195). -/
theorem hashOk_freshCtx (alg : HashAlg) (hmac : Bool) : hashOk (freshCtx alg hmac) = true := by
  cases alg <;> cases hmac <;> decide +kernel

/-- Absorbing keeps an open context right: the counters stay consistent and the tail of `pend` zero (44_hash.md R193). -/
theorem hashOk_absorbBytes {hc : HashCtx} {data : List Byte} (ha : hc.active = true) (hok : hashOk hc = true)
    (hlen : hc.hlen.toNat + data.length < 2 ^ 61) : hashOk (absorbBytes hc data) = true := by
  obtain ⟨hn, -, hchain, -⟩ := (hashOk_iff_of_active ha).1 hok
  have hrest : ((hc.pending ++ data).drop ((hc.pending ++ data).length / blockSize hc.alg * blockSize hc.alg)).length =
      (hc.hlen.toNat + data.length) % blockSize hc.alg := by
    rw [List.length_drop, ← Nat.mod_eq_sub_div_mul, List.length_append, length_pending, hn, Nat.mod_add_mod]
  have hlt : (hc.hlen.toNat + data.length) % blockSize hc.alg < 128 :=
    (Nat.mod_lt _ (blockSize_pos _)).trans_le (blockSize_le _)
  have hcount : (absorbBytes hc data).hlen.toNat = hc.hlen.toNat + data.length :=
    (BitVec.toNat_ofNat _ 64).trans (Nat.mod_eq_of_lt (by omega))
  have hnpend : (absorbBytes hc data).npend.toNat = (hc.hlen.toNat + data.length) % blockSize hc.alg :=
    (BitVec.toNat_ofNat _ 7).trans (by rw [hrest, Nat.mod_eq_of_lt hlt])
  refine (hashOk_iff_of_active (hc := absorbBytes hc data) ha).2 ⟨?_, ?_, ?_, ?_⟩
  · rw [hnpend, hcount]
    rfl
  · rwa [hcount]
  · exact (chainOk_congr rfl rfl).trans (chainOk_compressBlocks (hc := hc) _ _ hchain)
  · exact pad128_drop_zero (hrest.trans hnpend.symm).le

/-- The block key is one block (44_hash.md R201). -/
theorem length_blockKey (alg : HashAlg) (key : List Byte) : (blockKey alg key).length = blockSize alg := by
  have hd := digestLen_le_blockSize alg
  simp only [blockKey, List.length_append, length_zeros]
  split
  · rw [length_hash]
    omega
  · omega

@[simp] theorem length_xorBytes (c : Byte) (bs : List Byte) : (xorBytes c bs).length = bs.length := List.length_map _

/-- A destroyed context is the idle one, with a key of zeros (44_hash.md R196). -/
theorem hashUnitOk_destroyHash (s : State) : HashUnitOk s.destroyHash :=
  ⟨by simp [hashOk, HashCtx.idle], hkeyOk_of_zero (pad128_drop_zero (bs := []) (len := 0) le_rfl)⟩

/-- `HINIT` opens a plain hash, with a key of zeros (R195). -/
theorem hashUnitOk_hinit (s : State) (alg : HashAlg) : HashUnitOk (s.setHash (freshCtx alg false) (pad128 [])) :=
  ⟨hashOk_freshCtx alg false, hkeyOk_of_zero (pad128_drop_zero (bs := []) (len := 0) le_rfl)⟩

/-- `HMACINIT` opens an HMAC that has absorbed one block, and holds one block of key (R202). -/
theorem hashUnitOk_hmacinit (s : State) (alg : HashAlg) (key : List Byte) :
    HashUnitOk (s.setHash (absorbBytes (freshCtx alg true) (xorBytes 0x36 (blockKey alg key)))
      (pad128 (blockKey alg key))) := by
  refine ⟨hashOk_absorbBytes rfl (hashOk_freshCtx alg true) ?_,
    (hkeyOk_iff_of_hmac rfl rfl).2 (pad128_drop_zero (length_blockKey alg key).le)⟩
  have hb := blockSize_le alg
  rw [length_xorBytes, length_blockKey, show (freshCtx alg true).hlen.toNat = 0 from rfl]
  omega

/-- `HUPDATE` in an open context, after the length test (R193, R197). -/
theorem hashUnitOk_hupdate {s : State} {data : List Byte} {hc : HashCtx} (h : HashUnitOk s) (ha : s.hc.active = true)
    (habs : absorb s.hc data = .ok hc) : HashUnitOk (s.setHash hc s.hkey) := by
  unfold absorb at habs
  split at habs
  · cases habs
  · cases habs
    exact ⟨hashOk_absorbBytes ha h.1 (by omega), (hkeyOk_congr rfl rfl rfl rfl).trans h.2⟩

/-- Every command keeps the hash unit right: four commands destroy the context, two open one, `HUPDATE` absorbs, and the
others leave it alone. -/
theorem exec_endsWith_hashUnitOk (i : Instr) {s : State} (hs : HashUnitOk s) : EndsWith HashUnitOk i s (exec i s) := by
  cases i
  case hinit => exact command_endsWith (ensures_ok (hashUnitOk_hinit _ _))
  case hmacinit => exact command_endsWith (ensures_bind fun _ => ensures_ok (hashUnitOk_hmacinit _ _ _))
  case hupdate =>
    refine command_endsWith (ensures_bind fun data => ensures_bind_of_ok fun _ hact => ensures_bind_of_ok fun hc habs =>
      ensures_ok ?_)
    exact hashUnitOk_hupdate hs (require_eq_ok.1 hact) habs
  case hdigest | hmacfinal =>
    exact command_endsWith (ensures_bind fun _ => ensures_bind fun _ => ensures_ok (hashUnitOk_destroyHash _))
  case hdigestH256 | hdigestH160 =>
    exact command_endsWith (ensures_bind fun _ => ensures_bind fun _ => ensures_bind fun _ =>
      ensures_ok (hashUnitOk_destroyHash _))
  all_goals exact (exec_endsWith_frame _ s).mono fun t h => hs.congr (h.hash rfl).1 (h.hash rfl).2

end Sys2Proof.Machine

/-! ## The hidden cache keeps its invariant (10_state.md R39, log entry 6) -/

namespace Sys2Proof.Machine

/-- The key of a cache entry. -/
def CacheEntry.key (e : CacheEntry) : Byte × Word × Word := (e.w, e.x, e.y)

theorem cacheOk_iff {cache : List CacheEntry} :
    cacheOk cache = true ↔ (∀ e ∈ cache, cacheEntryOk e = true) ∧ (cache.map CacheEntry.key).Nodup ∧
      cache.length ≤ Config.wnafCacheEntries := by
  simp only [cacheOk, Bool.and_eq_true, List.all_eq_true, decide_eq_true_eq, and_assoc]
  rfl

/-- The entry just put in is alone with its key, and the capacity cuts the list. -/
theorem cacheOk_cacheInsert {e : CacheEntry} {cache : List CacheEntry} (he : cacheEntryOk e = true)
    (hc : cacheOk cache = true) : cacheOk (cacheInsert e cache) = true := by
  obtain ⟨hall, hnodup, -⟩ := cacheOk_iff.1 hc
  have hkey : e.key ∉ (cache.filter fun f => !(f.w == e.w && f.x == e.x && f.y == e.y)).map CacheEntry.key := by
    simp only [List.mem_map, List.mem_filter, CacheEntry.key, not_exists]
    rintro f ⟨⟨-, hne⟩, heq⟩
    simp only [Prod.mk.injEq] at heq
    obtain ⟨hw, hx, hy⟩ := heq
    simp [hw, hx, hy] at hne
  refine cacheOk_iff.2 ⟨fun f hf => ?_, ?_, List.length_take_le _ _⟩
  · rcases List.mem_cons.1 (List.mem_of_mem_take hf) with rfl | hf
    · exact he
    · exact hall f (List.mem_filter.1 hf).1
  · refine ((List.take_sublist _ _).map _).nodup (List.nodup_cons.2 ⟨hkey, ?_⟩)
    exact (List.filter_sublist.map _).nodup hnodup

/-- A point whose coordinates a register can hold. -/
def Pt.Fits : Pt → Prop
  | .inf => True
  | .fin x y => x < 2 ^ 256 ∧ y < 2 ^ 256

theorem APoint.toPt_fits (q : APoint) : q.toPt.Fits := by
  unfold APoint.toPt
  split
  · trivial
  · exact ⟨q.x.isLt, q.y.isLt⟩

theorem fits_of_pointOperand {s : State} {i : AIdx} {q : Pt} (h : pointOperand s i = .ok q) : q.Fits :=
  (checkPoint_wf h).2 ▸ (s.getA i).toPt_fits

theorem mod_p_lt (x : Nat) : x % Config.p < 2 ^ 256 := (Nat.mod_lt x (by decide)).trans (by decide)

theorem Pt.neg_fits {q : Pt} (h : q.Fits) : q.neg.Fits := by
  cases q with
  | inf => trivial
  | fin x y => exact ⟨h.1, mod_p_lt _⟩

theorem Pt.phi_fits {q : Pt} (h : q.Fits) : q.phi.Fits := by
  cases q with
  | inf => trivial
  | fin x y => exact ⟨mod_p_lt _, h.2⟩

theorem glvTerm_fits (k : Int) {q : Pt} (h : q.Fits) : (glvTerm k q).2.Fits := by
  unfold glvTerm
  split
  · exact Pt.neg_fits h
  · exact h

/-- The points of a multiply-add's terms are an operand and its image under `phi`, each up to its sign
(42_scalarmul.md R144). -/
theorem glvTerms_fits (k : Nat) {q : Pt} (h : q.Fits) : ∀ t ∈ glvTerms k q, t.2.Fits := by
  cases q with
  | inf => exact fun t ht => nomatch ht
  | fin x y => exact List.forall_mem_cons.2 ⟨glvTerm_fits _ h, List.forall_mem_singleton.2 (glvTerm_fits _ (Pt.phi_fits h))⟩

/-- The table of a point for a legal window is a right entry, under the key of that point and window (R141). -/
theorem cacheEntryOk_cacheEntry {w x y : Nat} (hmin : Config.wMin ≤ w) (hmax : w ≤ Config.wMax) (h : (Pt.fin x y).Fits) :
    cacheEntryOk (cacheEntry w x y) = true := by
  have hw : w < 2 ^ 8 := hmax.trans_lt (by decide)
  have hwn : (BitVec.ofNat 8 w).toNat = w := (BitVec.toNat_ofNat w 8).trans (Nat.mod_eq_of_lt hw)
  have hxn : (BitVec.ofNat 256 x).toNat = x := (BitVec.toNat_ofNat x 256).trans (Nat.mod_eq_of_lt h.1)
  have hyn : (BitVec.ofNat 256 y).toNat = y := (BitVec.toNat_ofNat y 256).trans (Nat.mod_eq_of_lt h.2)
  simp only [cacheEntryOk, cacheEntry, windowOk, hwn, hxn, hyn, hmin, hmax, and_self, decide_true, Bool.and_true]

theorem touchTable_cacheOk {s : State} {w : Nat} {q : Pt} (hmin : Config.wMin ≤ w) (hmax : w ≤ Config.wMax) (hq : q.Fits)
    (hc : cacheOk s.wnafCache = true) : cacheOk (s.touchTable w q).wnafCache = true := by
  cases q with
  | inf => exact hc
  | fin x y => exact cacheOk_cacheInsert (cacheEntryOk_cacheEntry hmin hmax hq) hc

theorem touchTables_cacheOk {s : State} {terms : List (Nat × Pt)} (hq : ∀ t ∈ terms, t.2.Fits)
    (hc : cacheOk s.wnafCache = true) : cacheOk (s.touchTables terms).wnafCache = true := by
  induction terms generalizing s with
  | nil => exact hc
  | cons t terms ih =>
    obtain ⟨ht, hterms⟩ := List.forall_mem_cons.1 hq
    exact ih hterms (touchTable_cacheOk (by decide) (by decide) ht hc)

theorem pmul_window {ad : AIdx} {rk : RIdx} {ab : AIdx} {w : Byte} (h : (Instr.pmul ad rk ab w).wellFormed = true) :
    Config.wMin ≤ w.toNat ∧ w.toNat ≤ Config.wMax := by
  by_contra hn
  simp [Instr.wellFormed, Instr.check, windowOk, hn] at h

/-- Every command keeps the cache right: two commands put tables in, the others leave it alone. -/
theorem exec_endsWith_cacheOk (i : Instr) {s : State} (hs : cacheOk s.wnafCache = true) :
    EndsWith (fun t => cacheOk t.wnafCache = true) i s (exec i s) := by
  cases i
  case pmul ad rk ab w =>
    refine command_endsWith_of_wellFormed fun hw => ensures_bind_of_ok fun q hq => ensures_ok ?_
    obtain ⟨hmin, hmax⟩ := pmul_window hw
    exact touchTable_cacheOk hmin hmax (fits_of_pointOperand hq) hs
  case pmuladd ad rk1 ap1 rk2 ap2 =>
    refine command_endsWith (ensures_bind_of_ok fun p1 h1 => ensures_bind_of_ok fun p2 h2 => ensures_ok ?_)
    refine touchTables_cacheOk (fun t ht => ?_) hs
    rcases List.mem_append.1 ht with ht | ht
    · exact glvTerms_fits _ (fits_of_pointOperand h1) t ht
    · exact glvTerms_fits _ (fits_of_pointOperand h2) t ht
  all_goals exact (exec_endsWith_frame _ s).mono fun t h => (h.cache rfl).symm ▸ hs

/-! ## Every command and every step keep the invariant -/

/-- A command stores inside DBUF, so the canonical form is kept (20_memory.md R40, R41). -/
theorem Frame.dbuf_wf {i : Instr} {s t : State} (h : Frame i s t) (hs : s.dbuf.wf = true) : t.dbuf.wf = true := by
  rcases h.buffer with heq | ⟨bs, -, hfit, heq⟩
  · rwa [heq]
  · rw [heq]
    exact Memory.writeBytes_wf hs hfit

theorem faultRecordOk_congr {s t : State} (h : t.recordAndHost = s.recordAndHost) : faultRecordOk t = faultRecordOk s := by
  simp only [State.recordAndHost, Prod.mk.injEq] at h
  obtain ⟨⟨herr, hcode, hcmd⟩, -, -⟩ := h
  rw [faultRecordOk, faultRecordOk, herr, hcode, hcmd]

/-- Fault entry writes the record alone, with a code of 60_exceptions.md R261. -/
theorem Inv.faultEntry {s : State} (h : Inv s) (e : ErrCode) (w : Word32) : Inv (faultEntry e w s) :=
  { h with faultRecord := by cases e <;> rfl }

/-- Every command keeps the invariant. -/
theorem Inv.exec {i : Instr} {s t : State} (hs : Inv s) (h : exec i s = .next t) : Inv t := by
  have hf (e : ErrCode) : Inv (Machine.faultEntry e (encode i) s) := hs.faultEntry e _
  obtain ⟨hhash, hkey⟩ := (exec_endsWith_hashUnitOk i ⟨hs.hash, hs.hkey⟩).of_next (fun e => ⟨(hf e).hash, (hf e).hkey⟩) h
  exact {
    memory := (exec_frame h).dbuf_wf hs.memory
    faultRecord := ((exec_endsWith_recordAndHost i s).mono fun t ht => (faultRecordOk_congr ht).trans hs.faultRecord).of_next
      (fun e => (hf e).faultRecord) h
    hash := hhash
    hkey := hkey
    cache := (exec_endsWith_cacheOk i hs.cache).of_next (fun e => (hf e).cache) h }

/-- A write to `CMD`: discarded, an illegal word, or a command (60_exceptions.md R263). -/
theorem Inv.issue {s t : State} {w : Word32} (hs : Inv s) (h : issue w s = .next t) : Inv t := by
  unfold Machine.issue at h
  split at h
  · cases h
    exact hs
  · split at h
    · cases h
      exact hs.faultEntry _ _
    · exact hs.exec h

/-- A write to `CTRL`: reset, the record cleared, or nothing (10_state.md R33). -/
theorem Inv.writeCtrl {s : State} (hs : Inv s) (w : Word32) : Inv (writeCtrl w s) := by
  unfold Machine.writeCtrl
  split
  · exact inv_resetBlock s
  · split
    · exact { hs with faultRecord := rfl }
    · exact hs

/-- A write of data reaches a register, which the invariant does not speak of, or one word of DBUF. -/
theorem Inv.writeData {s : State} (hs : Inv s) (w : Word32) (loc : Loc) : Inv (writeData s w loc) := by
  cases loc
  case dbuf m =>
    have hfit : 4 * m.val + (laneBytes w).length ≤ Config.dbufBytes := by
      have hlen : (laneBytes w).length = 4 := rfl
      have hsize : Config.dbufBytes = 512 := rfl
      omega
    exact { hs with memory := Memory.writeBytes_wf hs.memory hfit }
  all_goals exact { hs with }

theorem Inv.writeLoc {s t : State} {w : Word32} {loc : Loc} (hs : Inv s) (h : writeLoc s w loc = .next t) : Inv t := by
  unfold Machine.writeLoc at h
  split at h
  · exact hs.issue h
  · split at h
    · cases h
      exact hs.writeCtrl w
    · cases h
      exact hs.writeData w loc

theorem Inv.serve {s t : State} {e : HostEvent} (hs : Inv s) (h : serve e s = .next t) : Inv t := by
  cases e with
  | read off =>
    simp only [Machine.serve] at h
    split at h
    · cases h
      exact { hs with }
    · cases h
  | write off w =>
    simp only [Machine.serve] at h
    split at h
    · exact hs.writeLoc h
    · cases h
  | otherWidth off bytes => cases h
  | hardReset =>
    cases h
    exact inv_resetBlock s

/-- Settles O22: a step serves at most one event, in the state whose queue has lost it. -/
theorem stepKeepsTheInvariant : Obligations.StepKeepsTheInvariant := by
  intro s t hs h
  cases hin : s.hostIn with
  | nil =>
    rw [step, hin] at h
    cases h
    exact hs
  | cons e rest =>
    rw [step, hin] at h
    exact Inv.serve (s := { s with hostIn := rest }) { hs with } h

end Sys2Proof.Machine

/-! ## The window map (20_memory.md R44) -/

namespace Sys2Proof.Machine

/-! Each region of the window, and where the words of a register lie in its slot. -/

/-- Slot `i` of the affine file: an aligned offset in it is decoded within the slot. -/
theorem locate_affine (i : Fin 8) {off o : Nat} (hoff : off = 0x400 + 128 * i.val + o) (ho : o < 128) (h4 : o % 4 = 0) :
    locate off = locateAffine i o := by
  have hi : Fin.ofNat 8 ((off - 0x400) / 128) = i := Fin.ext (by simp only [Fin.ofNat]; omega)
  rw [locate, if_neg (by omega), if_neg (by omega), if_neg (by omega), if_neg (by omega), if_pos (by omega), hi,
    show off % 128 = o by omega]

/-- Slot `i` of the Jacobian file. -/
theorem locate_jacobian (i : Fin 8) {off o : Nat} (hoff : off = 0x800 + 128 * i.val + o) (ho : o < 128) (h4 : o % 4 = 0) :
    locate off = locateJacobian i o := by
  have hi : Fin.ofNat 8 ((off - 0x800) / 128) = i := Fin.ext (by simp only [Fin.ofNat]; omega)
  rw [locate, if_neg (by omega), if_neg (by omega), if_neg (by omega), if_neg (by omega), if_neg (by omega),
    if_pos (by omega), hi, show off % 128 = o by omega]

/-- The view of the hash context. -/
theorem locate_hash {off o : Nat} (hoff : off = 0xC00 + o) (ho : o < 0x100) (h4 : o % 4 = 0) :
    locate off = locateHash o := by
  rw [locate, if_neg (by omega), if_neg (by omega), if_neg (by omega), if_neg (by omega), if_neg (by omega),
    if_neg (by omega), if_pos (by omega), show off - 0xC00 = o by omega]

/-- The index of word `k` of a 256-bit field, read off its byte offset; the field begins at a multiple of 32 bytes. -/
theorem wordIndex_of_offset (k : Fin 8) {base : Nat} (h : base % 32 = 0) : Fin.ofNat 8 ((base + 4 * k.val) / 4) = k :=
  Fin.ext (by simp only [Fin.ofNat]; omega)

theorem locateAffine_x (i k : Fin 8) : locateAffine i (0x00 + 4 * k.val) = some (.ax i k) := by
  rw [locateAffine, if_pos (by omega), wordIndex_of_offset k rfl]

theorem locateAffine_y (i k : Fin 8) : locateAffine i (0x20 + 4 * k.val) = some (.ay i k) := by
  rw [locateAffine, if_neg (by omega), if_pos (by omega), wordIndex_of_offset k rfl]

theorem locateJacobian_X (i k : Fin 8) : locateJacobian i (0x00 + 4 * k.val) = some (.jx i k) := by
  rw [locateJacobian, if_pos (by omega), wordIndex_of_offset k rfl]

theorem locateJacobian_Y (i k : Fin 8) : locateJacobian i (0x20 + 4 * k.val) = some (.jy i k) := by
  rw [locateJacobian, if_neg (by omega), if_pos (by omega), wordIndex_of_offset k rfl]

theorem locateJacobian_Z (i k : Fin 8) : locateJacobian i (0x40 + 4 * k.val) = some (.jz i k) := by
  rw [locateJacobian, if_neg (by omega), if_neg (by omega), if_pos (by omega), wordIndex_of_offset k rfl]

/-- A chaining cell, its low word (`half = 0`) or its high word (`half = 4`). -/
theorem locateHash_cell (i : Fin 8) {half : Nat} (h : half < 8) :
    locateHash (0x40 + 8 * i.val + half) = some (if half = 0 then .hLo i else .hHi i) := by
  have hi : Fin.ofNat 8 ((0x40 + 8 * i.val + half) / 8) = i := Fin.ext (by simp only [Fin.ofNat]; omega)
  rw [locateHash, if_neg (by omega), if_neg (by omega), if_neg (by omega), if_neg (by omega), if_pos (by omega), hi,
    show (0x40 + 8 * i.val + half) % 8 = half by omega]

theorem locateHash_pend (m : Fin 32) : locateHash (0x80 + 4 * m.val) = some (.pend m) := by
  have hm : Fin.ofNat 32 ((0x80 + 4 * m.val) / 4) = m := Fin.ext (by simp only [Fin.ofNat]; omega)
  rw [locateHash, if_neg (by omega), if_neg (by omega), if_neg (by omega), if_neg (by omega), if_neg (by omega), hm]

/-- Every location is at its own offset. -/
theorem locate_offset (loc : Loc) : locate loc.offset = some loc := by
  cases loc <;> rw [Loc.offset]
  case id | cmd | status | flags | errcmd | ctrl | hctl | hlenLo | hlenHi => rfl
  case r i k =>
    have hi : Fin.ofNat 16 ((0x100 + 32 * i.val + 4 * k.val - 0x100) / 32) = i := Fin.ext (by simp only [Fin.ofNat]; omega)
    rw [locate, if_neg (by omega), if_neg (by omega), if_pos (by omega), hi, wordIndex_of_offset k (by omega)]
  case ax i k => exact (locate_affine i (by omega) (by omega) (by omega)).trans (locateAffine_x i k)
  case ay i k => exact (locate_affine i (by omega) (by omega) (by omega)).trans (locateAffine_y i k)
  case ainf i => exact locate_affine i (o := 0x40) (by omega) (by decide) rfl
  case jx i k => exact (locate_jacobian i (by omega) (by omega) (by omega)).trans (locateJacobian_X i k)
  case jy i k => exact (locate_jacobian i (by omega) (by omega) (by omega)).trans (locateJacobian_Y i k)
  case jz i k => exact (locate_jacobian i (by omega) (by omega) (by omega)).trans (locateJacobian_Z i k)
  case hLo i => exact (locate_hash (by omega) (by omega) (by omega)).trans (locateHash_cell i (half := 0) (by decide))
  case hHi i => exact (locate_hash (by omega) (by omega) (by omega)).trans (locateHash_cell i (half := 4) (by decide))
  case pend m => exact (locate_hash (by omega) (by omega) (by omega)).trans (locateHash_pend m)
  case dbuf m =>
    have hm : Fin.ofNat 128 ((0x1000 + 4 * m.val - 0x1000) / 4) = m := Fin.ext (by simp only [Fin.ofNat]; omega)
    rw [locate, if_neg (by omega), if_neg (by omega), if_neg (by omega), if_neg (by omega), if_neg (by omega),
      if_neg (by omega), if_neg (by omega), if_neg (by omega), if_pos (by omega), hm]

/-! The other direction: what a region decodes lies at the offset it was decoded from. -/

theorem offset_of_locateControl {off : Nat} {loc : Loc} (h : locateControl off = some loc) : loc.offset = off := by
  unfold locateControl at h
  split at h <;> cases h <;> rfl

theorem offset_of_locateAffine {i : Fin 8} {o : Nat} {loc : Loc} (h4 : o % 4 = 0) (h : locateAffine i o = some loc) :
    loc.offset = 0x400 + 128 * i.val + o := by
  unfold locateAffine at h
  split_ifs at h <;> cases h <;> simp only [Loc.offset, Fin.ofNat] <;> omega

theorem offset_of_locateJacobian {i : Fin 8} {o : Nat} {loc : Loc} (h4 : o % 4 = 0) (h : locateJacobian i o = some loc) :
    loc.offset = 0x800 + 128 * i.val + o := by
  unfold locateJacobian at h
  split_ifs at h <;> cases h <;> simp only [Loc.offset, Fin.ofNat] <;> omega

theorem offset_of_locateHash {o : Nat} {loc : Loc} (ho : o < 0x100) (h4 : o % 4 = 0) (h : locateHash o = some loc) :
    loc.offset = 0xC00 + o := by
  unfold locateHash at h
  split_ifs at h <;> cases h <;> simp only [Loc.offset, Fin.ofNat] <;> omega

/-- Nothing is mapped but the locations, each at its offset. -/
theorem offset_of_locate {off : Nat} {loc : Loc} (h : locate off = some loc) : loc.offset = off := by
  unfold locate at h
  split_ifs at h with h4 hcontrol hr _ hAffine hJacobian hHash _ hDbuf
  · exact offset_of_locateControl h
  · cases h
    simp only [Loc.offset, Fin.ofNat]
    omega
  · rw [offset_of_locateAffine (by omega) h]
    simp only [Fin.ofNat]
    omega
  · rw [offset_of_locateJacobian (by omega) h]
    simp only [Fin.ofNat]
    omega
  · rw [offset_of_locateHash (by omega) (by omega) h]
    omega
  · cases h
    simp only [Loc.offset, Fin.ofNat]
    omega

/-- Settles O11: the two directions of the map. -/
theorem windowMapIsExact : Obligations.WindowMapIsExact := ⟨locate_offset, fun _ _ => offset_of_locate⟩

/-- Settles O19: DBUF is as it was, or with one byte string stored in the command's range. -/
theorem frameDataBuffer : Obligations.FrameDataBuffer := by
  intro i s t h addr haddr
  rcases (exec_frame h).buffer with heq | ⟨bs, hlen, -, heq⟩
  · rw [heq]
  · rw [heq, Memory.read_writeBytes_outside s.dbuf (hlen ▸ haddr)]

/-! ## Reads and bus errors (20_memory.md R43, R47) -/

/-- What a read answers does not depend on the host's queue. -/
theorem readLoc_hostIn (s : State) (rest : List HostEvent) (loc : Loc) :
    readLoc { s with hostIn := rest } loc = readLoc s loc := by
  cases loc <;> rfl

/-- The step that serves a read of a location answers it. -/
theorem step_read {s : State} {loc : Loc} {rest : List HostEvent} (h : s.hostIn = .read loc.offset :: rest) :
    step s = .next (answerRead (readLoc s loc) { s with hostIn := rest }) := by
  simp only [step, h, serve, locate_offset, readLoc_hostIn]

/-- The step that serves a write to a location is the write of that location. -/
theorem step_write {s : State} {w : Word32} {loc : Loc} {rest : List HostEvent} (h : s.hostIn = .write loc.offset w :: rest) :
    step s = writeLoc { s with hostIn := rest } w loc := by
  simp only [step, h, serve, locate_offset]

theorem step_read_unmapped {s : State} {off : Nat} {rest : List HostEvent} (hoff : locate off = none)
    (h : s.hostIn = .read off :: rest) : step s = .refused (.busError off) := by
  simp only [step, h, serve, hoff]

theorem step_write_unmapped {s : State} {off : Nat} {w : Word32} {rest : List HostEvent} (hoff : locate off = none)
    (h : s.hostIn = .write off w :: rest) : step s = .refused (.busError off) := by
  simp only [step, h, serve, hoff]

theorem step_otherWidth {s : State} {off bytes : Nat} {rest : List HostEvent} (h : s.hostIn = .otherWidth off bytes :: rest) :
    step s = .refused (.busError off) := by
  simp only [step, h, serve]

/-- An offset that is no location's is not mapped. -/
theorem locate_eq_none {off : Nat} (h : ∀ loc : Loc, loc.offset ≠ off) : locate off = none :=
  Option.eq_none_iff_forall_ne_some.2 fun loc hloc => h loc (offset_of_locate hloc)

/-- Settles O12: the steps by their event, and the gaps of the map by the offsets of its locations. -/
theorem readsAndBusErrors : Obligations.ReadsAndBusErrors := by
  refine ⟨fun _ _ _ h => step_read h, fun _ => ⟨rfl, rfl, rfl⟩,
    fun _ _ _ _ hoff => ⟨step_read_unmapped hoff, step_write_unmapped hoff⟩, fun _ _ _ _ h => step_otherWidth h,
    fun off hgap => locate_eq_none fun loc hloc => ?_⟩
  cases loc <;> simp only [Loc.offset] at hloc <;> omega

end Sys2Proof.Machine

/-! ## Word writes (20_memory.md R45, R48) -/

namespace Sys2Proof.Machine

/-- Bit `b` of a 256-bit field after a write of its word `k`. -/
theorem setWord_getLsbD (v : Word) (k : Fin 8) (x : Word32) {b : Nat} (hb : b < 256) :
    (setWord v k x).getLsbD b =
      if 32 * k.val ≤ b ∧ b < 32 * k.val + 32 then x.getLsbD (b - 32 * k.val) else v.getLsbD b := by
  have hmask : 0xFFFFFFFF#256 = (BitVec.allOnes 32).setWidth 256 := by decide
  simp only [setWord, hmask, BitVec.getLsbD_or, BitVec.getLsbD_and, BitVec.getLsbD_not, BitVec.getLsbD_shiftLeft,
    BitVec.getLsbD_setWidth, BitVec.getLsbD_allOnes, hb]
  by_cases hlo : b < 32 * k.val
  · simp [hlo, Nat.not_le.2 hlo]
  · by_cases hhi : b < 32 * k.val + 32
    · have hin : b - 32 * k.val < 32 := by omega
      have h256 : b - 32 * k.val < 256 := by omega
      simp [hlo, Nat.not_lt.1 hlo, hhi, hin, h256]
    · have hout : ¬ b - 32 * k.val < 32 := by omega
      have hx : x.getLsbD (b - 32 * k.val) = false := BitVec.getLsbD_of_ge x _ (by omega)
      simp [hlo, hhi, hout, hx]

@[simp] theorem getWord_setWord_self (v : Word) (k : Fin 8) (x : Word32) : getWord (setWord v k x) k = x := by
  refine BitVec.eq_of_getLsbD_eq fun b hb => ?_
  rw [getWord_getLsbD _ k hb, setWord_getLsbD v k x (by omega), if_pos (by omega), Nat.add_sub_cancel_left]

theorem getWord_setWord_of_ne (v : Word) {k k' : Fin 8} (h : k' ≠ k) (x : Word32) :
    getWord (setWord v k x) k' = getWord v k' := by
  have hne : k'.val ≠ k.val := fun he => h (Fin.ext he)
  refine BitVec.eq_of_getLsbD_eq fun b hb => ?_
  rw [getWord_getLsbD _ k' hb, getWord_getLsbD _ k' hb, setWord_getLsbD v k x (by omega), if_neg (by omega)]

/-- A DBUF word lies inside DBUF. -/
theorem dbufWord_fits (m : Fin 128) (x : Word32) : 4 * m.val + (laneBytes x).length ≤ Config.dbufBytes := by
  have hlen : (laneBytes x).length = 4 := rfl
  have hsize : Config.dbufBytes = 512 := rfl
  omega

theorem laneBytes_getElem (x : Word32) (b : Fin 4) : (laneBytes x)[b.val]'b.isLt = laneByte x b := by
  fin_cases b <;> rfl

/-- The four bytes of a DBUF word after its write. -/
theorem read_writeData_dbuf {s : State} (x : Word32) (m : Fin 128) (hs : s.dbuf.wf = true) (b : Fin 4) :
    (writeData s x (.dbuf m)).dbuf.read (4 * m.val + b.val) = laneByte x b :=
  (Memory.read_writeBytes_inside hs (dbufWord_fits m x) b.isLt).trans (laneBytes_getElem x b)

/-- Every other byte. -/
theorem read_writeData_dbuf_outside (s : State) (x : Word32) (m : Fin 128) {addr : Nat}
    (h : addr < 4 * m.val ∨ 4 * m.val + 4 ≤ addr) : (writeData s x (.dbuf m)).dbuf.read addr = s.dbuf.read addr :=
  Memory.read_writeBytes_outside s.dbuf h

/-- Settles O14: the bits of a field, the field each location writes, and the bytes of DBUF. -/
theorem wordWriteKeepsTheOtherBits : Obligations.WordWriteKeepsTheOtherBits := by
  refine ⟨fun v k x b hb => setWord_getLsbD v k x hb, fun s x k => ?_,
    fun s x m hs => ⟨read_writeData_dbuf x m hs, fun addr => read_writeData_dbuf_outside s x m⟩⟩
  exact ⟨fun _ => rfl, fun _ => rfl, fun _ => rfl, fun _ => rfl, fun _ => rfl, fun _ => rfl⟩

/-! ## A window word reads back, and no other word changes -/

/-- What a write of `r[i]` leaves of the window: every word but those of `r[i]` that it changes. -/
theorem readLoc_setR (s : State) (i : RIdx) (v : Word) {other : Loc}
    (h : ∀ k, other = .r i k → getWord v k = getWord (s.getR i) k) : readLoc (s.setR i v) other = readLoc s other := by
  cases other
  case r i' k =>
    rcases eq_or_ne i' i with rfl | hi
    · simpa only [readLoc, getR_setR_self] using h k rfl
    · simp only [readLoc, getR_setR_of_ne s hi]
  all_goals rfl

/-- The same for a write of `a[i]`. -/
theorem readLoc_setA (s : State) (i : AIdx) (q : APoint) {other : Loc}
    (hx : ∀ k, other = .ax i k → getWord q.x k = getWord (s.getA i).x k)
    (hy : ∀ k, other = .ay i k → getWord q.y k = getWord (s.getA i).y k)
    (hinf : other = .ainf i → q.inf = (s.getA i).inf) : readLoc (s.setA i q) other = readLoc s other := by
  cases other
  case ax i' k =>
    rcases eq_or_ne i' i with rfl | hi
    · simpa only [readLoc, getA_setA_self] using hx k rfl
    · simp only [readLoc, getA_setA_of_ne s hi]
  case ay i' k =>
    rcases eq_or_ne i' i with rfl | hi
    · simpa only [readLoc, getA_setA_self] using hy k rfl
    · simp only [readLoc, getA_setA_of_ne s hi]
  case ainf i' =>
    rcases eq_or_ne i' i with rfl | hi
    · simp only [readLoc, getA_setA_self, hinf rfl]
    · simp only [readLoc, getA_setA_of_ne s hi]
  all_goals rfl

/-- The same for a write of `j[i]`. -/
theorem readLoc_setJ (s : State) (i : JIdx) (q : JPoint) {other : Loc}
    (hX : ∀ k, other = .jx i k → getWord q.X k = getWord (s.getJ i).X k)
    (hY : ∀ k, other = .jy i k → getWord q.Y k = getWord (s.getJ i).Y k)
    (hZ : ∀ k, other = .jz i k → getWord q.Z k = getWord (s.getJ i).Z k) :
    readLoc (s.setJ i q) other = readLoc s other := by
  cases other
  case jx i' k =>
    rcases eq_or_ne i' i with rfl | hi
    · simpa only [readLoc, getJ_setJ_self] using hX k rfl
    · simp only [readLoc, getJ_setJ_of_ne s hi]
  case jy i' k =>
    rcases eq_or_ne i' i with rfl | hi
    · simpa only [readLoc, getJ_setJ_self] using hY k rfl
    · simp only [readLoc, getJ_setJ_of_ne s hi]
  case jz i' k =>
    rcases eq_or_ne i' i with rfl | hi
    · simpa only [readLoc, getJ_setJ_self] using hZ k rfl
    · simp only [readLoc, getJ_setJ_of_ne s hi]
  all_goals rfl

/-- The same for a write of a DBUF word. -/
theorem readLoc_writeData_dbuf_of_ne (s : State) (w : Word32) (m : Fin 128) {other : Loc} (h : other ≠ .dbuf m) :
    readLoc (writeData s w (.dbuf m)) other = readLoc s other := by
  cases other
  case dbuf m' =>
    have hne : m'.val ≠ m.val := fun he => h (congrArg Loc.dbuf (Fin.ext he))
    have hread (b : Nat) (hb : b < 4) :
        (writeData s w (.dbuf m)).dbuf.read (4 * m'.val + b) = s.dbuf.read (4 * m'.val + b) :=
      read_writeData_dbuf_outside s w m (by omega)
    simp only [readLoc, hread 0 (by decide), hread 1 (by decide), hread 2 (by decide), hread 3 (by decide)]
  all_goals rfl

/-- A write touches no other location (R48). In its own field, the other words are kept by `setWord`. -/
theorem readLoc_writeData_of_ne (s : State) (w : Word32) {loc other : Loc} (h : other ≠ loc) :
    readLoc (writeData s w loc) other = readLoc s other := by
  have hword (v : Word) {k k' : Fin 8} {mk : Fin 8 → Loc} (hloc : loc = mk k) (ho : other = mk k') :
      getWord (setWord v k w) k' = getWord v k' :=
    getWord_setWord_of_ne v (fun hk => h (ho.trans ((congrArg mk hk).trans hloc.symm))) w
  cases loc
  case r i k => exact readLoc_setR s i _ fun _ => hword _ rfl
  case ax i k => exact readLoc_setA s i _ (fun _ => hword _ rfl) (fun _ _ => rfl) fun _ => rfl
  case ay i k => exact readLoc_setA s i _ (fun _ _ => rfl) (fun _ => hword _ rfl) fun _ => rfl
  case ainf i => exact readLoc_setA s i _ (fun _ _ => rfl) (fun _ _ => rfl) fun ho => absurd ho h
  case jx i k => exact readLoc_setJ s i _ (fun _ => hword _ rfl) (fun _ _ => rfl) fun _ _ => rfl
  case jy i k => exact readLoc_setJ s i _ (fun _ _ => rfl) (fun _ => hword _ rfl) fun _ _ => rfl
  case jz i k => exact readLoc_setJ s i _ (fun _ _ => rfl) (fun _ _ => rfl) fun _ => hword _ rfl
  case dbuf m => exact readLoc_writeData_dbuf_of_ne s w m h
  all_goals rfl

/-- A word that a write replaces whole reads back (R48). -/
theorem readLoc_writeData_self {s : State} (w : Word32) {loc : Loc} (hs : s.dbuf.wf = true) (h : wholeWord loc = true) :
    readLoc (writeData s w loc) loc = w := by
  cases loc
  case r | ax | ay | jx | jy | jz => simp [writeData, readLoc]
  case dbuf m =>
    have hread (b : Fin 4) := read_writeData_dbuf w m hs b
    exact (congr (congr (congr (congrArg laneWord (hread 0)) (hread 1)) (hread 2)) (hread 3)).trans (laneWord_laneByte w)
  all_goals cases h

/-- `a[i].inf` takes bit 0 (R44). -/
theorem readLoc_writeData_ainf (s : State) (w : Word32) (i : Fin 8) :
    readLoc (writeData s w (.ainf i)) (.ainf i) = w &&& 1 := by
  rw [readLoc_ainf, writeData, getA_setA_self, show (1 : Word32) = 1#32 from rfl,
    BitVec.and_one_eq_setWidth_ofBool_getLsbD]
  cases w.getLsbD 0 <;> rfl

/-- A write to a location that holds no data of the host's changes nothing (R43). -/
theorem writeData_readOnly (s : State) (w : Word32) {loc : Loc} (h : wholeWord loc = false) (hinf : ∀ i, loc ≠ .ainf i) :
    writeData s w loc = s := by
  cases loc
  case ainf i => exact absurd rfl (hinf i)
  case r | ax | ay | jx | jy | jz | dbuf => cases h
  all_goals rfl

/-- Settles O13: the step of a write, and what the window reads after it. -/
theorem windowWordsReadBack : Obligations.WindowWordsReadBack := by
  refine ⟨fun s w loc rest h => ⟨step_write h, fun hcmd hctrl => ?_⟩, fun s w loc hs =>
    ⟨readLoc_writeData_self w hs, ?_, writeData_readOnly s w, fun other => readLoc_writeData_of_ne s w⟩⟩
  · rw [step_write h, writeLoc, if_neg hcmd, if_neg hctrl]
  · rintro i rfl
    exact readLoc_writeData_ainf s w i

end Sys2Proof.Machine

/-! ## A legal word is the word of its command (30_encoding.md R67) -/

namespace Sys2Proof

/-! ### A word from its fields -/

theorem encR_of_fields {w : Word32} {op d a b c imm : Nat} (ho : opOf w = op) (hd : dOf w = d) (ha : aOf w = a)
    (hb : bOf w = b) (hc : cOf w = c) (hi : immOf w = imm) : encR op d a b c imm = w := by
  subst ho hd ha hb hc hi
  refine BitVec.eq_of_toNat_eq ?_
  have := w.isLt
  simp only [encR, BitVec.toNat_ofNat, opOf, dOf, aOf, bOf, cOf, immOf]
  omega

theorem encM_of_fields {w : Word32} {op d off len : Nat} (ho : opOf w = op) (hd : dOf w = d) (hf : offMOf w = off)
    (hl : immOf w = len) : encM op d off len = w := by
  subst ho hd hf hl
  refine BitVec.eq_of_toNat_eq ?_
  have := w.isLt
  simp only [encM, BitVec.toNat_ofNat, opOf, dOf, offMOf, immOf]
  omega

theorem encB_of_fields {w : Word32} {op off len : Nat} (ho : opOf w = op) (hf : offBOf w = off) (hl : lenBOf w = len) :
    encB op off len = w := by
  subst ho hf hl
  refine BitVec.eq_of_toNat_eq ?_
  have := w.isLt
  simp only [encB, BitVec.toNat_ofNat, opOf, offBOf, lenBOf]
  omega

/-! ### A field from its operand: no operand drops a bit of its field -/

theorem dOf_eq_rIdx (w : Word32) : dOf w = rIdx (dOf w) := (Nat.mod_mod _ _).symm

theorem aOf_eq_rIdx (w : Word32) : aOf w = rIdx (aOf w) := (Nat.mod_mod _ _).symm

theorem bOf_eq_rIdx (w : Word32) : bOf w = rIdx (bOf w) := (Nat.mod_mod _ _).symm

theorem cOf_eq_rIdx (w : Word32) : cOf w = rIdx (cOf w) := (Nat.mod_mod _ _).symm

theorem immOf_eq_byte (w : Word32) : immOf w = (BitVec.ofNat 8 (immOf w)).toNat := (Nat.mod_mod _ _).symm

theorem offMOf_eq_off (w : Word32) : offMOf w = (BitVec.ofNat 12 (offMOf w)).toNat := (Nat.mod_mod _ _).symm

theorem offBOf_eq_off (w : Word32) : offBOf w = (BitVec.ofNat 12 (offBOf w)).toNat := (Nat.mod_mod _ _).symm

theorem lenBOf_eq_len (w : Word32) : lenBOf w = (BitVec.ofNat 12 (lenBOf w)).toNat := (Nat.mod_mod _ _).symm

/-! ### What a check of R62 that goes through has tested -/

theorem illegal_bind_eq_ok {α β : Type} {m : Except Illegal α} {f : α → Except Illegal β} {y : β} :
    (m >>= f) = .ok y ↔ ∃ x, m = .ok x ∧ f x = .ok y := by
  cases m <;> simp

@[simp] theorem unused_eq_ok {fields : List Nat} {u : Unit} : unused fields = .ok u ↔ fields.Forall (· = 0) := by
  simp [unused, List.forall_iff_forall_mem]

@[simp] theorem pointIdx_eq_ok {field : Nat} {i : Fin 8} : pointIdx field = .ok i ↔ field = i := by
  refine ⟨fun h => ?_, fun h => h ▸ pointIdx_val i⟩
  unfold pointIdx at h
  split at h
  · cases h; rfl
  · cases h

@[simp] theorem flagImm_eq_ok {imm : Nat} {b : Bool} : flagImm imm = .ok b ↔ imm = b.toNat := by
  refine ⟨fun h => ?_, fun h => h ▸ flagImm_toNat b⟩
  unfold flagImm at h
  split_ifs at h with h0 h1
  · cases h; exact h0
  · cases h; exact h1

@[simp] theorem constOf_eq_ok {idx : Nat} {k : CurveConst} : constOf idx = .ok k ↔ idx = k.code := by
  refine ⟨fun h => ?_, fun h => h ▸ constOf_code k⟩
  unfold constOf at h
  split at h <;> cases h <;> rfl

@[simp] theorem algOf_eq_ok {sel : Nat} {alg : HashAlg} : algOf sel = .ok alg ↔ sel = alg.code := by
  refine ⟨fun h => ?_, fun h => h ▸ algOf_code alg⟩
  unfold algOf at h
  split at h <;> cases h <;> rfl

theorem fields_of_nonceSrcOf {tag c cnt : Nat} {src : NonceSrc} (hc : c < 2 ^ 4) (hcnt : cnt < 2 ^ 5)
    (h : nonceSrcOf tag c cnt = .ok src) : tag = src.tag ∧ c = src.cField ∧ cnt = src.cntField := by
  unfold nonceSrcOf at h
  split at h
  · split_ifs at h with h0
    cases h
    exact ⟨rfl, h0⟩
  · split_ifs at h with h0
    cases h
    exact ⟨rfl, (Nat.mod_eq_of_lt hc).symm, h0⟩
  · split_ifs at h with h0
    cases h
    exact ⟨rfl, h0, (Nat.mod_eq_of_lt hcnt).symm⟩
  · cases h

/-! ### Each decoder inverts the encoder on the words of its opcode -/

/-- A command that `dec` reads from a word with the opcode `op` is encoded as that word. -/
def InvertsEncode (op : Nat) (dec : Decoder) : Prop := ∀ (w : Word32) (i : Instr), opOf w = op → dec w = .ok i → encode i = w

section Shapes
variable {op : Nat}

theorem decRRR_inverts {mk : RIdx → RIdx → RIdx → Instr} (henc : ∀ d a b, encode (mk d a b) = encR op d a b 0 0) :
    InvertsEncode op (decRRR mk) := by
  intro w i hop h
  simp only [decRRR, illegal_bind_eq_ok, unused_eq_ok] at h
  obtain ⟨-, ⟨hc, hi⟩, ⟨⟩⟩ := h
  exact (henc _ _ _).trans (encR_of_fields hop (dOf_eq_rIdx w) (aOf_eq_rIdx w) (bOf_eq_rIdx w) hc hi)

theorem decRR_inverts {mk : RIdx → RIdx → Instr} (henc : ∀ d a, encode (mk d a) = encR op d a 0 0 0) :
    InvertsEncode op (decRR mk) := by
  intro w i hop h
  simp only [decRR, illegal_bind_eq_ok, unused_eq_ok] at h
  obtain ⟨-, ⟨hb, hc, hi⟩, ⟨⟩⟩ := h
  exact (henc _ _).trans (encR_of_fields hop (dOf_eq_rIdx w) (aOf_eq_rIdx w) hb hc hi)

theorem decPPP_inverts {mk : Fin 8 → Fin 8 → Fin 8 → Instr} (henc : ∀ d a b, encode (mk d a b) = encR op d a b 0 0) :
    InvertsEncode op (decPPP mk) := by
  intro w i hop h
  simp only [decPPP, illegal_bind_eq_ok, unused_eq_ok, pointIdx_eq_ok] at h
  obtain ⟨-, ⟨hc, hi⟩, d, hd, a, ha, b, hb, ⟨⟩⟩ := h
  exact (henc d a b).trans (encR_of_fields hop hd ha hb hc hi)

theorem decPP_inverts {mk : Fin 8 → Fin 8 → Instr} (henc : ∀ d a, encode (mk d a) = encR op d a 0 0 0) :
    InvertsEncode op (decPP mk) := by
  intro w i hop h
  simp only [decPP, illegal_bind_eq_ok, unused_eq_ok, pointIdx_eq_ok] at h
  obtain ⟨-, ⟨hb, hc, hi⟩, d, hd, a, ha, ⟨⟩⟩ := h
  exact (henc d a).trans (encR_of_fields hop hd ha hb hc hi)

theorem decP_inverts {mk : Fin 8 → Instr} (henc : ∀ d, encode (mk d) = encR op d 0 0 0 0) : InvertsEncode op (decP mk) := by
  intro w i hop h
  simp only [decP, illegal_bind_eq_ok, unused_eq_ok, pointIdx_eq_ok] at h
  obtain ⟨-, ⟨ha, hb, hc, hi⟩, d, hd, ⟨⟩⟩ := h
  exact (henc d).trans (encR_of_fields hop hd ha hb hc hi)

theorem decRP_inverts {mk : RIdx → Fin 8 → Instr} (henc : ∀ d a, encode (mk d a) = encR op d a 0 0 0) :
    InvertsEncode op (decRP mk) := by
  intro w i hop h
  simp only [decRP, illegal_bind_eq_ok, unused_eq_ok, pointIdx_eq_ok] at h
  obtain ⟨-, ⟨hb, hc, hi⟩, a, ha, ⟨⟩⟩ := h
  exact (henc _ a).trans (encR_of_fields hop (dOf_eq_rIdx w) ha hb hc hi)

theorem decRM_inverts {mk : RIdx → Off → Byte → Instr}
    (henc : ∀ d off len, encode (mk d off len) = encM op d off.toNat len.toNat) : InvertsEncode op (decRM mk) := by
  rintro w _ hop ⟨⟩
  exact (henc _ _ _).trans (encM_of_fields hop (dOf_eq_rIdx w) (offMOf_eq_off w) (immOf_eq_byte w))

theorem decPM_inverts {mk : Fin 8 → Off → Byte → Instr}
    (henc : ∀ d off len, encode (mk d off len) = encM op d off.toNat len.toNat) : InvertsEncode op (decPM mk) := by
  intro w i hop h
  simp only [decPM, illegal_bind_eq_ok, pointIdx_eq_ok] at h
  obtain ⟨d, hd, ⟨⟩⟩ := h
  exact (henc d _ _).trans (encM_of_fields hop hd (offMOf_eq_off w) (immOf_eq_byte w))

end Shapes

theorem decNop_inverts : InvertsEncode 0x00 decNop := by
  intro w i hop h
  simp only [decNop, illegal_bind_eq_ok, unused_eq_ok] at h
  obtain ⟨-, ⟨hd, ha, hb, hc, hi⟩, ⟨⟩⟩ := h
  exact encR_of_fields hop hd ha hb hc hi

theorem decLdi_inverts : InvertsEncode 0x02 decLdi := by
  intro w i hop h
  simp only [decLdi, illegal_bind_eq_ok, unused_eq_ok] at h
  obtain ⟨-, ⟨ha, hb, hc⟩, ⟨⟩⟩ := h
  exact encR_of_fields hop (dOf_eq_rIdx w) ha hb hc (immOf_eq_byte w)

theorem decLdc_inverts : InvertsEncode 0x03 decLdc := by
  intro w i hop h
  simp only [decLdc, illegal_bind_eq_ok, unused_eq_ok, constOf_eq_ok] at h
  obtain ⟨-, ⟨ha, hb, hc⟩, k, hk, ⟨⟩⟩ := h
  exact encR_of_fields hop (dOf_eq_rIdx w) ha hb hc hk

theorem decPset_inverts : InvertsEncode 0x08 decPset := by
  intro w i hop h
  simp only [decPset, illegal_bind_eq_ok, unused_eq_ok, pointIdx_eq_ok] at h
  obtain ⟨-, ⟨hc, hi⟩, d, hd, ⟨⟩⟩ := h
  exact encR_of_fields hop hd (aOf_eq_rIdx w) (bOf_eq_rIdx w) hc hi

theorem decPeq_inverts : InvertsEncode 0x23 decPeq := by
  intro w i hop h
  simp only [decPeq, illegal_bind_eq_ok, unused_eq_ok, pointIdx_eq_ok] at h
  obtain ⟨-, ⟨hd, hc, hi⟩, a, ha, b, hb, ⟨⟩⟩ := h
  exact encR_of_fields hop hd ha hb hc hi

theorem decPvalid_inverts : InvertsEncode 0x24 decPvalid := by
  intro w i hop h
  simp only [decPvalid, illegal_bind_eq_ok, unused_eq_ok, pointIdx_eq_ok] at h
  obtain ⟨-, ⟨hd, hb, hc, hi⟩, a, ha, ⟨⟩⟩ := h
  exact encR_of_fields hop hd ha hb hc hi

theorem decPfromx_inverts : InvertsEncode 0x25 decPfromx := by
  intro w i hop h
  simp only [decPfromx, illegal_bind_eq_ok, unused_eq_ok, pointIdx_eq_ok, flagImm_eq_ok] at h
  obtain ⟨-, ⟨hb, hc⟩, d, hd, odd, hi, ⟨⟩⟩ := h
  exact encR_of_fields hop hd (aOf_eq_rIdx w) hb hc hi

theorem decWnaf_inverts : InvertsEncode 0x30 decWnaf := by
  intro w i hop h
  simp only [decWnaf, illegal_bind_eq_ok, unused_eq_ok] at h
  obtain ⟨-, ⟨hb, hc⟩, ⟨⟩⟩ := h
  exact encR_of_fields hop (dOf_eq_rIdx w) (aOf_eq_rIdx w) hb hc (immOf_eq_byte w)

theorem decPmul_inverts : InvertsEncode 0x33 decPmul := by
  intro w i hop h
  simp only [decPmul, illegal_bind_eq_ok, unused_eq_ok, pointIdx_eq_ok] at h
  obtain ⟨-, hc, d, hd, b, hb, ⟨⟩⟩ := h
  exact encR_of_fields hop hd (aOf_eq_rIdx w) hb hc (immOf_eq_byte w)

/-- `imm` is its low three bits, the second point, because `imm[7:3]` is zero. -/
theorem decPmuladd_inverts : InvertsEncode 0x34 decPmuladd := by
  intro w i hop h
  simp only [decPmuladd, illegal_bind_eq_ok, unused_eq_ok, pointIdx_eq_ok] at h
  obtain ⟨-, hz, d, hd, b, hb, p2, hp, ⟨⟩⟩ := h
  have hz : immOf w / 2 ^ 3 = 0 := hz
  have hi : immOf w = p2 := by omega
  exact encR_of_fields hop hd (aOf_eq_rIdx w) hb (cOf_eq_rIdx w) hi

theorem decTruncn_inverts : InvertsEncode 0x40 decTruncn := by
  intro w i hop h
  simp only [decTruncn, illegal_bind_eq_ok, unused_eq_ok, flagImm_eq_ok] at h
  obtain ⟨-, ⟨hb, hc⟩, t, hi, ⟨⟩⟩ := h
  exact encR_of_fields hop (dOf_eq_rIdx w) (aOf_eq_rIdx w) hb hc hi

theorem decDrbgk_inverts : InvertsEncode 0x41 decDrbgk := by
  intro w i hop h
  simp only [decDrbgk, illegal_bind_eq_ok, unused_eq_ok] at h
  obtain ⟨-, hc, ⟨⟩⟩ := h
  exact encR_of_fields hop (dOf_eq_rIdx w) (aOf_eq_rIdx w) (bOf_eq_rIdx w) hc (immOf_eq_byte w)

/-- `imm` is put together from `lowS`, `src` and `cnt`, which are all of its bits. -/
theorem decSign_inverts : InvertsEncode 0x42 decSign := by
  intro w i hop h
  obtain ⟨src, hsrc, ⟨⟩⟩ := illegal_bind_eq_ok.1 h
  have hlt : immOf w < 2 ^ 8 := Nat.mod_lt _ (by decide)
  obtain ⟨htag, hc, hcnt⟩ := fields_of_nonceSrcOf (Nat.mod_lt _ (by decide)) (by omega) hsrc
  have hlow : (immOf w % 2 == 1).toNat = immOf w % 2 := by
    rcases Nat.mod_two_eq_zero_or_one (immOf w) with h0 | h1
    · rw [h0]; rfl
    · rw [h1]; rfl
  exact encR_of_fields hop (dOf_eq_rIdx w) (aOf_eq_rIdx w) (bOf_eq_rIdx w) hc (by omega)

theorem decVerify_inverts : InvertsEncode 0x43 decVerify := by
  intro w i hop h
  simp only [decVerify, illegal_bind_eq_ok, unused_eq_ok, pointIdx_eq_ok] at h
  obtain ⟨-, hi, q, hq, ⟨⟩⟩ := h
  exact encR_of_fields hop hq (aOf_eq_rIdx w) (bOf_eq_rIdx w) (cOf_eq_rIdx w) hi

theorem decHinit_inverts : InvertsEncode 0x50 decHinit := by
  intro w i hop h
  simp only [decHinit, illegal_bind_eq_ok, unused_eq_ok, algOf_eq_ok] at h
  obtain ⟨-, ⟨hd, ha, hb, hc⟩, alg, hi, ⟨⟩⟩ := h
  exact encR_of_fields hop hd ha hb hc hi

theorem decHupdate_inverts : InvertsEncode 0x51 decHupdate := by
  rintro w _ hop ⟨⟩
  exact encB_of_fields hop (offBOf_eq_off w) (lenBOf_eq_len w)

/-- One case for each mnemonic of the opcode. -/
theorem decHdigest_inverts : InvertsEncode 0x52 decHdigest := by
  intro w i hop h
  simp only [decHdigest, illegal_bind_eq_ok, unused_eq_ok] at h
  obtain ⟨-, hi, h⟩ := h
  split at h
  case h_1 hd => cases h; exact encM_of_fields hop hd (offMOf_eq_off w) hi
  case h_2 hd => cases h; exact encM_of_fields hop hd (offMOf_eq_off w) hi
  case h_3 hd => cases h; exact encM_of_fields hop hd (offMOf_eq_off w) hi
  case h_4 => cases h

theorem decHmacinit_inverts : InvertsEncode 0x53 decHmacinit := by
  intro w i hop h
  simp only [decHmacinit, illegal_bind_eq_ok, algOf_eq_ok] at h
  obtain ⟨alg, hd, ⟨⟩⟩ := h
  exact encM_of_fields hop hd (offMOf_eq_off w) (immOf_eq_byte w)

theorem decHmacfinal_inverts : InvertsEncode 0x54 decHmacfinal := by
  intro w i hop h
  simp only [decHmacfinal, illegal_bind_eq_ok, unused_eq_ok] at h
  obtain ⟨-, ⟨hd, hi⟩, ⟨⟩⟩ := h
  exact encM_of_fields hop hd (offMOf_eq_off w) hi

/-! ### The opcode map, and the decoder -/

theorem decodersMove_invert : ∀ e ∈ decodersMove, InvertsEncode e.1 e.2 := by
  simp only [decodersMove, List.forall_mem_cons]
  exact ⟨decNop_inverts, decRR_inverts fun _ _ => rfl, decLdi_inverts, decLdc_inverts, decRM_inverts fun _ _ _ => rfl,
    decRM_inverts fun _ _ _ => rfl, decPset_inverts, decRP_inverts fun _ _ => rfl, decRP_inverts fun _ _ => rfl,
    decPP_inverts fun _ _ => rfl, decP_inverts fun _ => rfl, decP_inverts fun _ => rfl, decPP_inverts fun _ _ => rfl,
    List.forall_mem_nil _⟩

theorem decodersField_invert : ∀ e ∈ decodersField, InvertsEncode e.1 e.2 := by
  simp only [decodersField, List.forall_mem_cons]
  exact ⟨decRRR_inverts fun _ _ _ => rfl, decRRR_inverts fun _ _ _ => rfl, decRRR_inverts fun _ _ _ => rfl,
    decRR_inverts fun _ _ => rfl, decRRR_inverts fun _ _ _ => rfl, decRR_inverts fun _ _ => rfl,
    decRR_inverts fun _ _ => rfl, decRRR_inverts fun _ _ _ => rfl, decRR_inverts fun _ _ => rfl,
    decRR_inverts fun _ _ => rfl, List.forall_mem_nil _⟩

theorem decodersPoint_invert : ∀ e ∈ decodersPoint, InvertsEncode e.1 e.2 := by
  simp only [decodersPoint, List.forall_mem_cons]
  exact ⟨decPPP_inverts fun _ _ _ => rfl, decPP_inverts fun _ _ => rfl, decPP_inverts fun _ _ => rfl, decPeq_inverts,
    decPvalid_inverts, decPfromx_inverts, decPM_inverts fun _ _ _ => rfl, decPM_inverts fun _ _ _ => rfl,
    decPP_inverts fun _ _ => rfl, decPP_inverts fun _ _ => rfl, decPPP_inverts fun _ _ _ => rfl,
    decPP_inverts fun _ _ => rfl, decPP_inverts fun _ _ => rfl, List.forall_mem_nil _⟩

theorem decodersRest_invert : ∀ e ∈ decodersRest, InvertsEncode e.1 e.2 := by
  simp only [decodersRest, List.forall_mem_cons]
  exact ⟨decWnaf_inverts, decRR_inverts fun _ _ => rfl, decPP_inverts fun _ _ => rfl, decPmul_inverts, decPmuladd_inverts,
    decTruncn_inverts, decDrbgk_inverts, decSign_inverts, decVerify_inverts, decHinit_inverts, decHupdate_inverts,
    decHdigest_inverts, decHmacinit_inverts, decHmacfinal_inverts, List.forall_mem_nil _⟩

theorem decoders_invert : ∀ e ∈ decoders, InvertsEncode e.1 e.2 := by
  simp only [decoders, List.forall_mem_append]
  exact ⟨⟨⟨decodersMove_invert, decodersField_invert⟩, decodersPoint_invert⟩, decodersRest_invert⟩

theorem mem_decoders_of_lookup {op : Nat} {dec : Decoder} (h : decoders.lookup op = some dec) : (op, dec) ∈ decoders := by
  obtain ⟨before, after, hl, -⟩ := List.lookup_eq_some_iff.1 h
  simp [hl]

/-- What the decoder has done when it answers a command: looked up the opcode, cut the fields, and found every check of R62
met. -/
theorem decode_eq_ok {w : Word32} {i : Instr} (h : decode w = .ok i) :
    ∃ dec, (opOf w, dec) ∈ decoders ∧ dec w = .ok i ∧ i.wellFormed = true := by
  unfold decode at h
  split at h
  case h_1 => cases h
  case h_2 dec hl =>
    obtain ⟨k, hdec, hk⟩ := illegal_bind_eq_ok.1 h
    obtain ⟨_, hcheck, hki⟩ := illegal_bind_eq_ok.1 hk
    cases hki
    exact ⟨dec, mem_decoders_of_lookup hl, hdec, by rw [Instr.wellFormed, hcheck]⟩

/-- Settles O2: the decoder of the word's opcode inverts the encoder on it. -/
theorem encodeInvertsDecode : Obligations.EncodeInvertsDecode := by
  intro w i h
  obtain ⟨dec, hmem, hdec, hwf⟩ := decode_eq_ok h
  exact ⟨hwf, decoders_invert _ hmem w i rfl hdec⟩

/-- Settles O3: the round trips of `decode_encode`; a word shared by two commands would decode to both. -/
theorem decodeInvertsEncode : Obligations.DecodeInvertsEncode := by
  refine ⟨decode_encode, fun i k hi hk hik => ?_⟩
  have : (.ok i : Except Illegal Instr) = .ok k := calc
    .ok i = decode (encode i) := (decode_encode i hi).symm
    _ = decode (encode k) := by rw [hik]
    _ = .ok k := decode_encode k hk
  exact Except.ok.inj this

/-- Settles O1: twenty closed words, evaluated. -/
theorem encodingExamplesDecode : Obligations.EncodingExamplesDecode := by
  unfold Obligations.EncodingExamplesDecode
  decide +kernel

end Sys2Proof

/-! ## Operands below a modulus (40_field.md R70) -/

namespace Sys2Proof.Machine

/-- The range test that `fieldOperand` makes with `p` and `orderOperand` with `n`. -/
def operandBelow (m : Nat) (s : State) (i : RIdx) : Except ErrCode Nat :=
  if s.natR i < m then .ok (s.natR i) else .error .range

theorem fieldOperand_eq_operandBelow : fieldOperand = operandBelow Config.p := rfl

theorem orderOperand_eq_operandBelow : orderOperand = operandBelow Config.n := rfl

section Operands
variable {m : Nat} {s t : State} {i : Instr} {ra rb : RIdx}

theorem operandBelow_of_lt (h : s.natR ra < m) : operandBelow m s ra = .ok (s.natR ra) := if_pos h

theorem operandBelow_of_le (h : m ≤ s.natR ra) : operandBelow m s ra = .error .range := if_neg (Nat.not_lt.2 h)

theorem command_operand_ok {f : Nat → Except ErrCode State} (hw : i.wellFormed = true) (ha : s.natR ra < m)
    (hf : f (s.natR ra) = .ok t) : command i s (operandBelow m s ra >>= f) = .next t :=
  command_ok hw (by rw [operandBelow_of_lt ha, ok_bind, hf])

theorem command_operand_range {f : Nat → Except ErrCode State} (hw : i.wellFormed = true) (ha : m ≤ s.natR ra) :
    command i s (operandBelow m s ra >>= f) = .next (faultEntry .range (encode i) s) :=
  command_error hw (by rw [operandBelow_of_le ha, error_bind])

theorem command_two_operands_ok {f : Nat → Nat → Except ErrCode State} (hw : i.wellFormed = true) (ha : s.natR ra < m)
    (hb : s.natR rb < m) (hf : f (s.natR ra) (s.natR rb) = .ok t) :
    command i s (operandBelow m s ra >>= fun x => operandBelow m s rb >>= f x) = .next t :=
  command_operand_ok hw ha (by rw [operandBelow_of_lt hb, ok_bind, hf])

/-- A range fault of either operand is the fault of the command. -/
theorem command_two_operands_range {f : Nat → Nat → Except ErrCode State} (hw : i.wellFormed = true)
    (h : m ≤ s.natR ra ∨ m ≤ s.natR rb) :
    command i s (operandBelow m s ra >>= fun x => operandBelow m s rb >>= f x) =
      .next (faultEntry .range (encode i) s) := by
  by_cases ha : m ≤ s.natR ra
  · exact command_operand_range hw ha
  · have hb : m ≤ s.natR rb := h.resolve_left ha
    refine command_error hw ?_
    rw [operandBelow_of_lt (Nat.not_le.1 ha), ok_bind, operandBelow_of_le hb, error_bind]

end Operands

/-! ## The field operations and the reducer -/

/-- `p` is `2^256` less the constant of the fold (40_field.md R72). -/
theorem p_add_fold : Config.p + (2 ^ 32 + 977) = 2 ^ 256 := by decide

/-- The sum of two residues needs one conditional subtraction. -/
theorem addP_eq_ite {x y : Nat} (hx : x < Config.p) (hy : y < Config.p) :
    addP x y = if Config.p ≤ x + y then x + y - Config.p else x + y := by
  split_ifs with h
  · rw [addP, Nat.mod_eq_sub_mod h, Nat.mod_eq_of_lt (by omega)]
  · exact Nat.mod_eq_of_lt (Nat.not_le.1 h)

/-- The difference of two residues needs one conditional addition. -/
theorem subP_eq_ite {x y : Nat} (hx : x < Config.p) (hy : y < Config.p) :
    subP x y = if x < y then x + Config.p - y else x - y := by
  rw [subP, Nat.mod_eq_of_lt hy]
  split_ifs with h
  · rw [← Nat.add_sub_assoc hy.le, Nat.mod_eq_of_lt (by omega)]
  · rw [show x + (Config.p - y) = x - y + Config.p by omega, Nat.add_mod_right, Nat.mod_eq_of_lt (by omega)]

/-- A fold takes a multiple of `p` away. -/
theorem foldP_add (x : Nat) : foldP x + x / 2 ^ 256 * Config.p = x := by
  calc
    foldP x + x / 2 ^ 256 * Config.p = x % 2 ^ 256 + x / 2 ^ 256 * (Config.p + (2 ^ 32 + 977)) := by
      unfold foldP
      ring
    _ = x := by rw [p_add_fold, Nat.mod_add_div']

theorem foldP_mod (x : Nat) : foldP x % Config.p = x % Config.p := by
  conv_rhs => rw [← foldP_add x, Nat.add_mul_mod_self_right]

theorem foldP_lt {x : Nat} (hx : x < 2 ^ 512) : foldP x < 2 ^ 289 := by
  unfold foldP
  omega

theorem foldP_foldP_lt {x : Nat} (hx : x < 2 ^ 512) : foldP (foldP x) < 2 ^ 256 + 2 ^ 66 := by
  have h := foldP_lt hx
  unfold foldP at h ⊢
  omega

/-- The reducer computes the residue: after both folds one subtraction is enough, for `2^256 + 2^66 < 2p`. -/
theorem redp_eq_mod {x : Nat} (hx : x < 2 ^ 512) : redp x = x % Config.p := by
  have hlt := foldP_foldP_lt hx
  have hp := p_add_fold
  rw [← foldP_mod x, ← foldP_mod (foldP x), redp]
  split_ifs with h
  · rw [Nat.mod_eq_sub_mod h, Nat.mod_eq_of_lt (by omega)]
  · rw [Nat.mod_eq_of_lt (by omega)]

theorem mul_lt_of_lt_p {x y : Nat} (hx : x < Config.p) (hy : y < Config.p) : x * y < 2 ^ 512 :=
  (Nat.mul_lt_mul'' hx hy).trans (by decide +kernel)

/-- The reducer multiplies residues. -/
theorem redp_mul {x y : Nat} (hx : x < Config.p) (hy : y < Config.p) : redp (x * y) = x * y % Config.p :=
  redp_eq_mod (mul_lt_of_lt_p hx hy)

theorem mod_p_lt_p (x : Nat) : x % Config.p < Config.p := Nat.mod_lt x (by decide)

theorem pair_lt (s : State) (ra : RIdx) : s.pair ra < 2 ^ 512 := by
  have hlo : s.natR ra < 2 ^ 256 := (s.getR ra).isLt
  have hhi : s.natR (pairHigh ra) < 2 ^ 256 := (s.getR (pairHigh ra)).isLt
  unfold State.pair
  omega

/-- The pair of 10_state.md R22, with the index of its upper register as a sum. -/
theorem pair_eq (s : State) (ra : RIdx) :
    s.pair ra = s.natR ra + 2 ^ 256 * s.natR (Fin.ofNat 16 (ra.val + 1)) := by
  have h : pairHigh ra = Fin.ofNat 16 (ra.val + 1) := Fin.ext rfl
  rw [State.pair, h]

/-- Settles O27: the folds keep the residue, their bounds leave one conditional subtraction; the worked case is evaluated. -/
theorem reducerComputesTheResidue : Obligations.ReducerComputesTheResidue := by
  refine ⟨fun x hx => ⟨foldP_mod x, foldP_lt hx, ?_, foldP_foldP_lt hx, rfl, redp_eq_mod hx⟩, ?_⟩
  · rw [foldP_mod, foldP_mod]
  · decide +kernel

/-- Settles O26: the range tests of both operands, then one conditional correction. -/
theorem fieldAddAndSubtract : Obligations.FieldAddAndSubtract := by
  intro s rd ra rb
  refine ⟨fun ha hb => ⟨?_, ?_⟩, fun h => ⟨?_, ?_⟩⟩
  · exact command_two_operands_ok rfl ha hb (by rw [addP_eq_ite ha hb])
  · exact command_two_operands_ok rfl ha hb (by rw [subP_eq_ite ha hb])
  · exact command_two_operands_range rfl h
  · exact command_two_operands_range rfl h

theorem redp_redn_wellFormed (rd : RIdx) {ra : RIdx} (h : ra.val ≤ 14) :
    (Instr.redp rd ra).wellFormed = true ∧ (Instr.redn rd ra).wellFormed = true := by
  simp [Instr.wellFormed, Instr.check, pairOk, h]

/-- Settles O28: a product of residues and a pair are below `2^512`, where the reducer is the residue. -/
theorem multiplyAndReduce : Obligations.MultiplyAndReduce := by
  intro s rd ra rb
  refine ⟨fun ha hb => ?_, fun h => ?_, fun ha hb => ?_, fun h => ?_, fun h => ⟨?_, ?_⟩⟩
  · exact command_two_operands_ok rfl ha hb (by rw [redp_mul ha hb])
  · exact command_two_operands_range rfl h
  · exact command_two_operands_ok rfl ha hb rfl
  · exact command_two_operands_range rfl h
  · exact command_ok (redp_redn_wellFormed rd h).1 (by rw [redp_eq_mod (pair_lt s ra), pair_eq])
  · exact command_ok (redp_redn_wellFormed rd h).2 (by rw [pair_eq])

/-! ## The order is a prime, and the inverse modulo a prime -/

/-- `n` is prime: the factor tree of `n - 1`, from its leaves to its root (10_state.md R36). -/
theorem prime_n : Nat.Prime Config.n := by
  have h57 : Nat.Prime 107361793816595537 :=
    prime_of_lucasTest 3 [2, 2, 2, 2, 16699, 85831, 4681609] [] (by decide +kernel) (by norm_num) (by simp)
  have h68 : Nat.Prime 174723607534414371449 :=
    prime_of_lucasTest 3 [2, 2, 2, 17, 59, 4051, 120233, 44706919] [] (by decide +kernel) (by norm_num) (by simp)
  have h39 : Nat.Prime 297159362677 :=
    prime_of_lucasTest 2 [2, 2, 3, 3, 11, 461, 1627771] [] (by decide +kernel) (by norm_num) (by simp)
  have h30 : Nat.Prime 545358713 :=
    prime_of_lucasTest 5 [2, 2, 2, 41, 59, 28181] [] (by decide +kernel) (by norm_num) (by simp)
  have h95 : Nat.Prime 29047611873442575647497758179 :=
    prime_of_lucasTest 2 [2, 293, 305873] [_, _] (by decide +kernel) (by norm_num)
      (List.forall_mem_cons.2 ⟨h30, List.forall_mem_singleton.2 h39⟩)
  have h109 : Nat.Prime 341948486974166000522343609283189 :=
    prime_of_lucasTest 2 [2, 2, 3, 3, 3, 109] [_] (by decide +kernel) (by norm_num) (List.forall_mem_singleton.2 h95)
  exact prime_of_lucasTest 7 [2, 2, 2, 2, 2, 2, 3, 149, 631] [_, _, _] (by decide +kernel) (by norm_num)
    (List.forall_mem_cons.2 ⟨h57, List.forall_mem_cons.2 ⟨h68, List.forall_mem_singleton.2 h109⟩⟩)

theorem invMod_lt {m : Nat} (x : Nat) (hm : 1 < m) : invMod m x < m :=
  powModLoop_lt _ _ _ (by omega) (Nat.mod_lt _ (by omega))

/-- Fermat: `x * x^(m-2)` is 1 modulo a prime `m` (log entry 10). -/
theorem mul_invMod {m x : Nat} (hm : m.Prime) (hlt : m < 32 ^ 52) (h1 : 1 ≤ x) (hx : x < m) : x * invMod m x % m = 1 := by
  have : Fact m.Prime := ⟨hm⟩
  have h2 := hm.two_le
  have hx0 : (x : ZMod m) ≠ 0 := by
    rw [Ne, ZMod.natCast_eq_zero_iff]
    exact Nat.not_dvd_of_pos_of_lt h1 hx
  have hcast : ((x * invMod m x : Nat) : ZMod m) = ((1 : Nat) : ZMod m) := by
    push_cast
    rw [invMod, powMod_cast m x (by omega), ← pow_succ', show m - 2 + 1 = m - 1 by omega, ZMod.pow_card_sub_one_eq_one hx0]
  rwa [ZMod.natCast_eq_natCast_iff', Nat.mod_eq_of_lt hm.one_lt] at hcast

theorem pos_of_mul_mod_eq_one {m x y : Nat} (h : x * y % m = 1) : 1 ≤ y := by
  refine Nat.pos_of_ne_zero fun hy => ?_
  rw [hy, Nat.mul_zero, Nat.zero_mod] at h
  exact Nat.zero_ne_one h

/-- A residue has at most one inverse among the residues. -/
theorem inverse_unique {m x y z : Nat} (hy : y < m) (hz : z < m) (hxy : x * y % m = 1) (hxz : x * z % m = 1) : y = z := by
  have h : y ≡ z [MOD m] := calc
    y = 1 * y := (Nat.one_mul y).symm
    _ ≡ x * z * y [MOD m] := Nat.ModEq.mul_right y (by rw [← hxz]; exact Nat.mod_modEq _ _)
    _ = x * y * z := Nat.mul_right_comm x z y
    _ ≡ 1 * z [MOD m] := Nat.ModEq.mul_right z (by rw [← hxy]; exact (Nat.mod_modEq _ _).symm)
    _ = z := Nat.one_mul z
  exact h.eq_of_lt_of_lt hy hz

/-- The two moduli of the machine are primes of the length that `powMod` serves. -/
theorem modulus_prime {m : Nat} (h : m = Config.p ∨ m = Config.n) : m.Prime ∧ m < 32 ^ 52 := by
  rcases h with rfl | rfl
  · exact ⟨prime_p, by decide⟩
  · exact ⟨prime_n, by decide⟩

/-- Settles O29: the model's power is an inverse by Fermat's theorem, and there is one inverse. -/
theorem inverseIsTheUniqueInverse : Obligations.InverseIsTheUniqueInverse := by
  refine ⟨prime_p, prime_n, fun m x hm h1 hx => ?_⟩
  obtain ⟨hprime, hlen⟩ := modulus_prime hm
  have hlt : invMod m x < m := invMod_lt x hprime.one_lt
  have hmul : x * invMod m x % m = 1 := mul_invMod hprime hlen h1 (by omega)
  exact ⟨pos_of_mul_mod_eq_one hmul, by omega, hmul, fun y _ hy hxy => inverse_unique (by omega) hlt hxy hmul⟩

/-- The rule of `INVP` and of `INVN`, after the range test (40_field.md R77, R82). -/
def inverseRule (m : Nat) (s : State) (rd : RIdx) (x : Nat) : Except ErrCode State := do
  require (x ≠ 0) .invZero
  .ok (s.setNatR rd (invMod m x))

theorem exec_invp (rd ra : RIdx) (s : State) : exec (.invp rd ra) s =
    command (.invp rd ra) s (operandBelow Config.p s ra >>= inverseRule Config.p s rd) := rfl

theorem exec_invn (rd ra : RIdx) (s : State) : exec (.invn rd ra) s =
    command (.invn rd ra) s (operandBelow Config.n s ra >>= inverseRule Config.n s rd) := rfl

section Inverse
variable {m : Nat} {s : State} {i : Instr} {rd ra : RIdx}

/-- On a nonzero residue the rule writes its inverse. -/
theorem command_inverse_ok (hm : m = Config.p ∨ m = Config.n) (hw : i.wellFormed = true) (h1 : 1 ≤ s.natR ra)
    (ha : s.natR ra < m) :
    ∃ y, command i s (operandBelow m s ra >>= inverseRule m s rd) = .next (s.setNatR rd y) ∧
      1 ≤ y ∧ y < m ∧ s.natR ra * y % m = 1 := by
  obtain ⟨hprime, hlen⟩ := modulus_prime hm
  have hmul := mul_invMod hprime hlen h1 ha
  refine ⟨_, command_operand_ok hw ha ?_, pos_of_mul_mod_eq_one hmul, invMod_lt _ hprime.one_lt, hmul⟩
  rw [inverseRule, require_true (by omega), ok_bind]

theorem command_inverse_zero (hm : m = Config.p ∨ m = Config.n) (hw : i.wellFormed = true) (h0 : s.natR ra = 0) :
    command i s (operandBelow m s ra >>= inverseRule m s rd) = .next (faultEntry .invZero (encode i) s) := by
  have ha : s.natR ra < m := h0 ▸ (modulus_prime hm).1.pos
  refine command_error hw ?_
  rw [operandBelow_of_lt ha, ok_bind, h0]
  rfl

end Inverse

/-- Settles O30: both commands are one rule, with the modulus `p` or `n`. -/
theorem inverseCommands : Obligations.InverseCommands := by
  intro s rd ra
  simp only [Raises, exec_invp, exec_invn]
  refine ⟨fun h1 ha => ?_, fun h => ?_, fun h1 ha => ?_, fun h => ?_, fun h0 => ⟨?_, ?_⟩⟩
  · exact command_inverse_ok (.inl rfl) rfl h1 ha
  · exact command_operand_range rfl h
  · exact command_inverse_ok (.inr rfl) rfl h1 ha
  · exact command_operand_range rfl h
  · exact command_inverse_zero (.inl rfl) rfl h0
  · exact command_inverse_zero (.inr rfl) rfl h0

/-! ## Powers and square roots -/

/-- One round of square and multiply appends a bit to the exponent. -/
theorem powp_round {x acc : Nat} (hx : x < Config.p) (hacc : acc < Config.p) (b : Bool) :
    (if b then redp (redp (acc * acc) * x) else redp (acc * acc)) = acc ^ 2 * x ^ b.toNat % Config.p := by
  rw [redp_mul hacc hacc, redp_mul (mod_p_lt_p _) hx, Nat.mod_mul_mod, ← pow_two]
  cases b <;> simp

/-- Square and multiply appends the low `i` bits of `e` to the exponent of the accumulator (40_field.md R78). -/
theorem powpLoop_eq {x : Nat} (e i : Nat) {acc : Nat} (hx : x < Config.p) (hacc : acc < Config.p) :
    powpLoop x e i acc = acc ^ 2 ^ i * x ^ (e % 2 ^ i) % Config.p := by
  induction i generalizing acc with
  | zero => simp [powpLoop, Nat.mod_one, Nat.mod_eq_of_lt hacc]
  | succ i ih =>
    rw [powpLoop, powp_round hx hacc, ih (mod_p_lt_p _), Nat.mod_pow_succ, ← Nat.toNat_testBit, Nat.mul_mod, ← Nat.pow_mod,
      ← Nat.mul_mod]
    congr 1
    ring

/-- Square and multiply computes the power. -/
theorem powp_eq {x : Nat} (e : Nat) (hx : x < Config.p) : powp x e = x ^ e % Config.p := by
  rw [powp, powpLoop_eq _ _ hx (by decide), one_pow, one_mul, Nat.mod_eq_of_lt (lt_two_pow_bitlen e)]

/-- Settles O31: the loop's invariant over all bits of the exponent. -/
theorem powerCommand : Obligations.PowerCommand := by
  intro s rd ra rb
  refine ⟨fun ha => ?_, fun h => ?_⟩
  · exact command_operand_ok rfl ha (by rw [powp_eq _ ha])
  · exact command_operand_range rfl h

/-- `x` is the square of a residue. -/
def HasRoot (x : Nat) : Prop := ∃ y, y < Config.p ∧ y * y % Config.p = x

/-- The candidate `x^((p+1)/4)` of 40_field.md R79. -/
def rootCandidate (x : Nat) : Nat := x ^ ((Config.p + 1) / 4) % Config.p

/-- The square root procedure tests its one candidate. -/
theorem sqrtp_eq {x : Nat} (hx : x < Config.p) :
    sqrtp x = if rootCandidate x * rootCandidate x % Config.p = x then some (rootCandidate x) else none := by
  have he : Config.sqrtExp = (Config.p + 1) / 4 := by decide
  rw [sqrtp, powp_eq _ hx, he, redp_mul (mod_p_lt_p _) (mod_p_lt_p _)]
  rfl

/-- The candidate for a square `y^2` squares to `y^(p+1)`, which is `y^2` by Fermat's theorem. -/
theorem rootCandidate_sq {x : Nat} (h : HasRoot x) : rootCandidate x * rootCandidate x % Config.p = x := by
  have : Fact (Nat.Prime Config.p) := ⟨prime_p⟩
  obtain ⟨y, -, rfl⟩ := h
  have he : 2 * ((Config.p + 1) / 4 + (Config.p + 1) / 4) = Config.p + 1 := by decide
  rw [← ZMod.natCast_eq_natCast_iff', rootCandidate]
  push_cast [ZMod.natCast_mod]
  rw [← pow_add, ← pow_two, ← pow_mul, he, pow_succ, ZMod.pow_card, pow_two]

theorem sqrtp_of_root {x : Nat} (hx : x < Config.p) (h : HasRoot x) : sqrtp x = some (rootCandidate x) := by
  rw [sqrtp_eq hx, if_pos (rootCandidate_sq h)]

/-- Where there is no root, the candidate is none. -/
theorem sqrtp_of_no_root {x : Nat} (hx : x < Config.p) (h : ¬HasRoot x) : sqrtp x = none := by
  rw [sqrtp_eq hx, if_neg fun hc => h ⟨rootCandidate x, mod_p_lt_p _, hc⟩]

/-- Settles O32: the candidate is a root exactly when there is one. -/
theorem squareRootCommand : Obligations.SquareRootCommand := by
  intro s rd ra
  refine ⟨fun ha h => ⟨?_, ?_⟩, fun ha h => ?_, fun h => ?_⟩
  · exact command_operand_ok rfl ha (by rw [sqrtp_of_root ha h]; rfl)
  · rw [pow_two]
    exact rootCandidate_sq h
  · exact command_operand_ok rfl ha (by rw [sqrtp_of_no_root ha h])
  · exact command_operand_range rfl h

end Sys2Proof.Machine

/-! ## The curve points are an abelian group -/

namespace Sys2Proof.Machine

section Field
variable [Fact (Nat.Prime Config.p)]

theorem Pt.neg_ofCoords (x y : Fp) : (Pt.ofCoords x y).neg = .ofCoords x (-y) := by
  rw [Pt.ofCoords, Pt.neg, Pt.ofCoords, ZMod.neg_val']

/-- The model's form of an opposite point is the opposite of the form. -/
theorem Pt.ofPoint_neg (P : curve.Point) : Pt.ofPoint (-P) = (Pt.ofPoint P).neg := by
  match P with
  | .zero => rfl
  | .some x y h => rw [WeierstrassCurve.Affine.Point.neg_some, Pt.ofPoint, Pt.ofPoint, Pt.neg_ofCoords, curve_negY]

end Field

/-- Settles O42: the well-formed points are the points of Mathlib's curve, with its addition. -/
theorem curvePointsFormAnAbelianGroup : Obligations.CurvePointsFormAnAbelianGroup := by
  have : Fact (Nat.Prime Config.p) := ⟨prime_p⟩
  intro q1 q2 q3 h1 h2 h3
  have hphi : q1.phi.wf = true := Pt.phi_wf h1
  obtain ⟨P, rfl⟩ := q1.wf_iff_ofPoint.1 h1
  obtain ⟨Q, rfl⟩ := q2.wf_iff_ofPoint.1 h2
  obtain ⟨R, rfl⟩ := q3.wf_iff_ofPoint.1 h3
  have hinf : Pt.inf = Pt.ofPoint (0 : curve.Point) := rfl
  refine ⟨?_, ?_, hphi, ?_, rfl, ?_, ?_, ?_⟩
  · exact (Pt.wf_iff_ofPoint _).2 ⟨P + Q, Pt.ofPoint_add P Q⟩
  · exact (Pt.wf_iff_ofPoint _).2 ⟨-P, Pt.ofPoint_neg P⟩
  · rw [hinf, ← Pt.ofPoint_add, add_zero]
  · rw [← Pt.ofPoint_neg, ← Pt.ofPoint_add, add_neg_cancel, hinf]
  · rw [← Pt.ofPoint_add, ← Pt.ofPoint_add, add_comm]
  · simp only [← Pt.ofPoint_add, add_assoc]

/-! ## Jacobian triples and the points they represent (41_point.md R92 to R96) -/

/-- A triple with coordinates in the field. -/
def Jac.ofCoords (X Y Z : Fp) : Jac := { X := X.val, Y := Y.val, Z := Z.val }

/-- The triple of the finite point `(x, y)` with the third coordinate `z` (R92). -/
def Jac.scaled (x y z : Fp) : Jac := .ofCoords (x * z ^ 2) (y * z ^ 3) z

/-- `j` is a canonical triple of the point `q` (R92). -/
def Jac.Represents (j : Jac) (q : Pt) : Prop :=
  (j.X < Config.p ∧ j.Y < Config.p ∧ j.Z < Config.p) ∧ j.toAffine = q

/-! The cases of the formulas with an infinity. -/

theorem Jac.represents_infinity : Jac.infinity.Represents .inf := ⟨by decide, rfl⟩

/-- A triple with `Y = 0` or `Z = 0` doubles to infinity (R93). -/
theorem Jac.dbl_eq_infinity {j : Jac} (h : j.Z = 0 ∨ j.Y = 0) : j.dbl = Jac.infinity := if_pos h

theorem Jac.represents_infinity_add {j1 j2 : Jac} {q : Pt} (hZ : j1.Z = 0) (h : j2.Represents q) :
    (j1.add j2).Represents q := by
  rw [Jac.add, if_pos hZ]
  split_ifs with hZ2
  · have hq : q = .inf := h.2.symm.trans (if_pos hZ2)
    rw [hq]
    exact Jac.represents_infinity
  · exact h

theorem Jac.represents_add_infinity {j1 j2 : Jac} {q : Pt} (hZ1 : j1.Z ≠ 0) (hZ2 : j2.Z = 0) (h : j1.Represents q) :
    (j1.add j2).Represents q := by
  rw [Jac.add, if_neg hZ1, if_pos hZ2]
  exact h

section Field
variable [Fact (Nat.Prime Config.p)]

/-- A well-formed finite point is on the curve over the field. -/
theorem nonsingular_of_wf_ofCoords {x y : Fp} (h : (Pt.ofCoords x y).wf = true) : curve.Nonsingular x y := by
  obtain ⟨_ | ⟨x', y', h'⟩, hP⟩ := (Pt.wf_iff_ofPoint _).1 h
  · cases hP
  · obtain ⟨hx, hy⟩ := Pt.fin.inj hP
    rwa [← ZMod.val_injective _ hx, ← ZMod.val_injective _ hy]

theorem Jac.exists_ofCoords {j : Jac} (h : j.X < Config.p ∧ j.Y < Config.p ∧ j.Z < Config.p) :
    ∃ X Y Z, j = Jac.ofCoords X Y Z := by
  obtain ⟨hX, hY, hZ⟩ := h
  refine ⟨j.X, j.Y, j.Z, ?_⟩
  rw [Jac.ofCoords, ZMod.val_natCast_of_lt hX, ZMod.val_natCast_of_lt hY, ZMod.val_natCast_of_lt hZ]

theorem Jac.ofCoords_canonical (X Y Z : Fp) :
    (Jac.ofCoords X Y Z).X < Config.p ∧ (Jac.ofCoords X Y Z).Y < Config.p ∧ (Jac.ofCoords X Y Z).Z < Config.p :=
  ⟨X.val_lt, Y.val_lt, Z.val_lt⟩

theorem Jac.toAffine_ofCoords {X Y Z : Fp} (hZ : Z ≠ 0) :
    (Jac.ofCoords X Y Z).toAffine = .ofCoords (X * (Z⁻¹ * Z⁻¹)) (Y * (Z⁻¹ * Z⁻¹) * Z⁻¹) := by
  simp only [Jac.toAffine, Jac.ofCoords, ZMod.val_eq_zero, hZ, if_false, invP_val, mulP_val, Pt.ofCoords]

/-- A scaled triple represents its point. -/
theorem Jac.represents_scaled (x y : Fp) {z : Fp} (hz : z ≠ 0) : (Jac.scaled x y z).Represents (.ofCoords x y) := by
  refine ⟨Jac.ofCoords_canonical _ _ _, ?_⟩
  rw [Jac.scaled, Jac.toAffine_ofCoords hz]
  congr 1 <;> field_simp

theorem Jac.Represents.of_eq_scaled {j : Jac} {x y z : Fp} (hz : z ≠ 0) (h : j = .scaled x y z) :
    j.Represents (.ofCoords x y) := h ▸ Jac.represents_scaled x y hz

/-- A triple of a point has `Z = 0` and is at infinity, or is the scaled triple of a finite point. -/
theorem Jac.Represents.cases {j : Jac} {q : Pt} (h : j.Represents q) :
    (j.Z = 0 ∧ q = .inf) ∨ ∃ x y z, z ≠ 0 ∧ j = .scaled x y z ∧ q = .ofCoords x y := by
  obtain ⟨hcan, rfl⟩ := h
  obtain ⟨X, Y, Z, rfl⟩ := Jac.exists_ofCoords hcan
  by_cases hZ : Z = 0
  · have hv : (Jac.ofCoords X Y Z).Z = 0 := (ZMod.val_eq_zero Z).2 hZ
    exact .inl ⟨hv, if_pos hv⟩
  · refine .inr ⟨_, _, Z, hZ, ?_, Jac.toAffine_ofCoords hZ⟩
    rw [Jac.scaled]
    congr 1 <;> field_simp

theorem Jac.represents_ofAffine {q : Pt} (hq : q.wf = true) : (Jac.ofAffine q).Represents q := by
  obtain ⟨_ | ⟨x, y, h⟩, rfl⟩ := q.wf_iff_ofPoint.1 hq
  · exact Jac.represents_infinity
  · have h1 : Jac.ofAffine (Pt.ofCoords x y) = .scaled x y 1 := by
      rw [Jac.scaled, one_pow, one_pow, mul_one, mul_one, Jac.ofCoords, ZMod.val_one]
      rfl
    rw [Pt.ofPoint, h1]
    exact Jac.represents_scaled x y one_ne_zero

/-! The formulas on triples over the field, a case of each. -/

theorem subP_zero_val (y : Fp) : subP 0 y.val = (-y).val := by
  rw [← zero_sub, ← subP_val, ZMod.val_zero]

theorem mulP_four_val (x : Fp) : mulP 4 x.val = (4 * x).val := mulP_val 4 x

theorem mulP_eight_val (x : Fp) : mulP 8 x.val = (8 * x).val := mulP_val 8 x

theorem Jac.neg_ofCoords {X Y Z : Fp} (hZ : Z ≠ 0) : (Jac.ofCoords X Y Z).neg = .ofCoords X (-Y) Z := by
  simp only [Jac.neg, Jac.ofCoords, ZMod.val_eq_zero, hZ, if_false, subP_zero_val]

theorem Jac.dbl_ofCoords {X Y Z : Fp} (hZ : Z ≠ 0) (hY : Y ≠ 0) :
    (Jac.ofCoords X Y Z).dbl =
      let s := 4 * X * (Y * Y)
      let m := 3 * X * X
      .ofCoords (m * m - 2 * s) (m * (s - (m * m - 2 * s)) - 8 * (Y * Y) * (Y * Y)) (2 * Y * Z) := by
  simp only [Jac.dbl, Jac.ofCoords, ZMod.val_eq_zero, hZ, hY, or_self, if_false, mulP_two_val, mulP_three_val,
    mulP_four_val, mulP_eight_val, mulP_val, subP_val]

theorem Jac.add_ofCoords {X1 Y1 Z1 X2 Y2 Z2 : Fp} (hZ1 : Z1 ≠ 0) (hZ2 : Z2 ≠ 0) :
    (Jac.ofCoords X1 Y1 Z1).add (.ofCoords X2 Y2 Z2) =
      let u1 := X1 * (Z2 * Z2)
      let s1 := Y1 * (Z2 * Z2) * Z2
      let h := X2 * (Z1 * Z1) - u1
      let r := Y2 * (Z1 * Z1) * Z1 - s1
      let x3 := r * r - h * (h * h) - 2 * (u1 * (h * h))
      if h = 0 then (if r = 0 then (Jac.ofCoords X1 Y1 Z1).dbl else Jac.infinity)
      else .ofCoords x3 (r * (u1 * (h * h) - x3) - s1 * (h * (h * h))) (h * Z1 * Z2) := by
  simp only [Jac.add, Jac.ofCoords, ZMod.val_eq_zero, hZ1, hZ2, if_false, mulP_two_val, mulP_val, subP_val]

/-! The formulas on scaled triples are the three cases of the group law. -/

theorem two_ne_zero_Fp : (2 : Fp) ≠ 0 := natCast_Fp_ne_zero (k := 2) (by decide) (by decide)

/-- Doubling is the tangent case, with `Z` multiplied by `2Y`. -/
theorem Jac.dbl_scaled_represents {x y z : Fp} (hz : z ≠ 0) (hy : y ≠ 0) :
    (Jac.scaled x y z).dbl.Represents (thirdPoint (3 * (x * x) / (2 * y)) x y x) := by
  have h2 := two_ne_zero_Fp
  have hY : y * z ^ 3 ≠ 0 := mul_ne_zero hy (pow_ne_zero 3 hz)
  refine Jac.Represents.of_eq_scaled (mul_ne_zero (mul_ne_zero h2 hY) hz) ?_
  rw [Jac.scaled, Jac.dbl_ofCoords hz hY, Jac.scaled]
  dsimp only
  congr 1 <;> field_simp <;> ring

/-- The sum of two triples with distinct affine `x` is the chord case, with the product of both `Z` multiplied by `H`. -/
theorem Jac.add_scaled_represents {x1 y1 z1 x2 y2 z2 : Fp} (h1 : z1 ≠ 0) (h2 : z2 ≠ 0) (hx : x1 ≠ x2) :
    ((Jac.scaled x1 y1 z1).add (.scaled x2 y2 z2)).Represents (thirdPoint ((y2 - y1) / (x2 - x1)) x1 y1 x2) := by
  have hd : x2 - x1 ≠ 0 := sub_ne_zero.2 hx.symm
  have hh : x2 * z2 ^ 2 * (z1 * z1) - x1 * z1 ^ 2 * (z2 * z2) = (x2 - x1) * (z1 ^ 2 * z2 ^ 2) := by ring
  have hne : (x2 - x1) * (z1 ^ 2 * z2 ^ 2) ≠ 0 := by positivity
  refine Jac.Represents.of_eq_scaled (mul_ne_zero (mul_ne_zero hne h1) h2) ?_
  rw [Jac.scaled, Jac.scaled, Jac.add_ofCoords h1 h2, Jac.scaled]
  dsimp only
  rw [hh, if_neg hne]
  congr 1 <;> field_simp <;> ring

/-- The sum of two triples with one affine `x` is a doubling or infinity. -/
theorem Jac.add_scaled_same_x {x y1 z1 y2 z2 : Fp} (h1 : z1 ≠ 0) (h2 : z2 ≠ 0) :
    (Jac.scaled x y1 z1).add (.scaled x y2 z2) = if y1 = y2 then (Jac.scaled x y1 z1).dbl else Jac.infinity := by
  have hh : x * z2 ^ 2 * (z1 * z1) - x * z1 ^ 2 * (z2 * z2) = 0 := by ring
  have hr : y2 * z2 ^ 3 * (z1 * z1) * z1 - y1 * z1 ^ 3 * (z2 * z2) * z2 = (y2 - y1) * (z1 * z2) ^ 3 := by ring
  rw [Jac.scaled, Jac.scaled, Jac.add_ofCoords h1 h2]
  simp only [hh, if_true, hr, mul_eq_zero, pow_eq_zero_iff three_ne_zero, h1, h2, or_self, or_false, sub_eq_zero, eq_comm]

/-! ## The formulas agree with the group law -/

/-- Doubling a triple of a curve point gives a triple of the doubled point, by the cases of R93. -/
theorem Jac.Represents.dbl {j : Jac} {q : Pt} (h : j.Represents q) : j.dbl.Represents q.dbl := by
  rcases h.cases with ⟨hZ, rfl⟩ | ⟨x, y, z, hz, rfl, rfl⟩
  · rw [Jac.dbl_eq_infinity (.inl hZ)]
    exact Jac.represents_infinity
  · by_cases hy : y = 0
    · have hY : (Jac.scaled x y z).Y = 0 := by simp [Jac.scaled, Jac.ofCoords, hy]
      rw [Jac.dbl_eq_infinity (.inr hY), Pt.dbl, Pt.add_opposite (by rw [hy, add_zero])]
      exact Jac.represents_infinity
    · have hyy : y + y ≠ 0 := by rw [← two_mul]; exact mul_ne_zero two_ne_zero_Fp hy
      rw [Pt.dbl, Pt.add_tangent hyy]
      exact Jac.dbl_scaled_represents hz hy

/-- A sum of triples of curve points is a triple of the sum, by the cases of R94. -/
theorem Jac.Represents.add {j1 j2 : Jac} {q1 q2 : Pt} (h1 : j1.Represents q1) (h2 : j2.Represents q2)
    (w1 : q1.wf = true) (w2 : q2.wf = true) : (j1.add j2).Represents (q1.add q2) := by
  rcases h1.cases with ⟨hZ1, rfl⟩ | ⟨x1, y1, z1, hz1, rfl, rfl⟩
  · exact Jac.represents_infinity_add hZ1 h2
  · rcases h2.cases with ⟨hZ2, rfl⟩ | ⟨x2, y2, z2, hz2, rfl, rfl⟩
    · exact Jac.represents_add_infinity (fun h => hz1 ((ZMod.val_eq_zero z1).1 h)) hZ2 h1
    · rcases curve_addition_cases (nonsingular_of_wf_ofCoords w1) (nonsingular_of_wf_ofCoords w2) with
        ⟨rfl, hy⟩ | ⟨rfl, rfl, hy⟩ | hx
      · rw [Jac.add_scaled_same_x hz1 hz2]
        split_ifs with he
        · subst he
          exact h1.dbl
        · rw [Pt.add_opposite hy]
          exact Jac.represents_infinity
      · rw [Jac.add_scaled_same_x hz1 hz2, if_pos rfl]
        exact h1.dbl
      · rw [Pt.add_chord hx]
        exact Jac.add_scaled_represents hz1 hz2 hx

/-- The opposite triple is a triple of the opposite point (R95). -/
theorem Jac.Represents.neg {j : Jac} {q : Pt} (h : j.Represents q) : j.neg.Represents q.neg := by
  rcases h.cases with ⟨hZ, rfl⟩ | ⟨x, y, z, hz, rfl, rfl⟩
  · rw [Jac.neg, if_pos hZ]
    exact Jac.represents_infinity
  · rw [Pt.neg_ofCoords]
    refine Jac.Represents.of_eq_scaled hz ?_
    rw [Jac.scaled, Jac.neg_ofCoords hz, Jac.scaled, neg_mul]

end Field

/-- Settles O41: the triples of the operands represent them, and each formula gives a triple of the result. -/
theorem jacobianAgreesWithAffine : Obligations.JacobianAgreesWithAffine := by
  have : Fact (Nat.Prime Config.p) := ⟨prime_p⟩
  refine ⟨fun q1 q2 w1 w2 => ?_, fun j1 j2 q1 q2 w1 w2 c1 c2 h1 h2 => ?_⟩
  · have h1 := Jac.represents_ofAffine w1
    have h2 := Jac.represents_ofAffine w2
    exact ⟨(h1.add h2 w1 w2).2, h1.dbl.2, h1.neg.2⟩
  · have r1 : j1.Represents q1 := ⟨c1, h1⟩
    have r2 : j2.Represents q2 := ⟨c2, h2⟩
    exact ⟨(r1.add r2 w1 w2).2, r1.dbl.2⟩

end Sys2Proof.Machine

/-! ## The group commands on well-formed points -/

namespace Sys2Proof.Machine

/-- A point's table changes nothing but the hidden cache. -/
theorem touchTable_eq (s : State) (w : Nat) (q : Pt) : ∃ c, s.touchTable w q = { s with wnafCache := c } := by
  cases q with
  | inf => exact ⟨s.wnafCache, rfl⟩
  | fin x y => exact ⟨_, rfl⟩

section Points
variable {i : Instr} {s t : State} {aa ab : AIdx}

theorem pointOperand_of_wf (h : (s.getA aa).toPt.wf = true) : pointOperand s aa = .ok (s.getA aa).toPt := checkPoint_ok h

theorem command_point_ok {f : Pt → Except ErrCode State} (hw : i.wellFormed = true) (ha : (s.getA aa).toPt.wf = true)
    (hf : f (s.getA aa).toPt = .ok t) : command i s (pointOperand s aa >>= f) = .next t :=
  command_ok hw (by rw [pointOperand_of_wf ha, ok_bind, hf])

theorem command_two_points_ok {f : Pt → Pt → Except ErrCode State} (hw : i.wellFormed = true)
    (ha : (s.getA aa).toPt.wf = true) (hb : (s.getA ab).toPt.wf = true)
    (hf : f (s.getA aa).toPt (s.getA ab).toPt = .ok t) :
    command i s (pointOperand s aa >>= fun q1 => pointOperand s ab >>= f q1) = .next t :=
  command_point_ok hw ha (by rw [pointOperand_of_wf hb, ok_bind, hf])

end Points

/-- Settles O33: well-formed operands pass `check_point`; the tables change the cache alone. -/
theorem groupCommandsComplete : Obligations.GroupCommandsComplete := by
  intro s ad aa ab ha hb
  refine ⟨?_, ?_, ?_, ?_, fun rk w hmin hmax => ?_, fun rk1 rk2 => ?_⟩
  · exact command_two_points_ok rfl ha hb rfl
  · exact command_point_ok rfl ha rfl
  · exact command_point_ok rfl ha rfl
  · exact command_point_ok rfl ha rfl
  · obtain ⟨c, hc⟩ :=
      touchTable_eq (s.setA ad (APoint.ofPt (smul (s.natR rk) (s.getA aa).toPt))) w.toNat (s.getA aa).toPt
    exact ⟨c, command_point_ok (pmul_wellFormed ad rk aa hmin hmax) ha (by rw [hc])⟩
  · obtain ⟨c, hc⟩ := touchTables_eq
      (s.setA ad (APoint.ofPt (muladd (s.natR rk1) (s.getA aa).toPt (s.natR rk2) (s.getA ab).toPt)))
      (glvTerms (s.natR rk1) (s.getA aa).toPt ++ glvTerms (s.natR rk2) (s.getA ab).toPt)
    exact ⟨c, command_two_points_ok rfl ha hb (by rw [hc, muladd])⟩

/-! ## The predicates of points -/

theorem finiteOperand_of_finite {s : State} {aa : AIdx} (h : (s.getA aa).inf = false) :
    finiteOperand s aa = .ok (s.getA aa) := finiteOperand_eq_ok.2 ⟨h, rfl⟩

theorem finiteOperand_of_inf {s : State} {aa : AIdx} (h : (s.getA aa).inf = true) :
    finiteOperand s aa = .error .infinity := if_pos h

/-- Registers hold the same point when both are at infinity, or both are finite with equal coordinates (41_point.md R100). -/
theorem samePoint_toPt (q1 q2 : APoint) :
    samePoint q1.toPt q2.toPt =
      if q1.inf || q2.inf then q1.inf && q2.inf else decide (q1.x = q2.x ∧ q1.y = q2.y) := by
  cases h1 : q1.inf <;> cases h2 : q2.inf <;> simp [samePoint, APoint.toPt, h1, h2, BitVec.toNat_inj]

/-- The curve equation on canonical coordinates (00_scope.md R15), with the powers of 41_point.md R101. -/
theorem onCurve_eq (x y : Nat) :
    onCurve x y = decide (x < Config.p ∧ y < Config.p ∧ y ^ 2 % Config.p = (x ^ 3 + 7) % Config.p) := by
  rw [onCurve, pow_two, pow_succ, pow_two, Bool.decide_and, Bool.decide_and, Bool.and_assoc]

/-- Settles O35: the operand tests of both commands, then their predicates. -/
theorem pointPredicates : Obligations.PointPredicates := by
  intro s aa ab
  refine ⟨fun ha hb => ?_, fun h => ?_, fun h => ?_⟩
  · exact command_two_points_ok rfl ha hb (by rw [samePoint_toPt])
  · exact command_ok rfl (by rw [finiteOperand_of_finite h, ok_bind, onCurve_eq])
  · exact command_error rfl (by rw [finiteOperand_of_inf h, error_bind])

/-! ## The point of an x coordinate (41_point.md R102) -/

/-- Two residues with one square are equal or opposite. -/
theorem eq_or_add_eq_p_of_sq {y t : Nat} (hy : y < Config.p) (ht : t < Config.p)
    (h : y * y % Config.p = t * t % Config.p) : y = t ∨ y + t = Config.p := by
  have : Fact (Nat.Prime Config.p) := ⟨prime_p⟩
  rw [← ZMod.natCast_eq_natCast_iff'] at h
  push_cast at h
  rcases mul_self_eq_mul_self_iff.1 h with h | h
  · rw [ZMod.natCast_eq_natCast_iff', Nat.mod_eq_of_lt hy, Nat.mod_eq_of_lt ht] at h
    exact .inl h
  · rw [eq_neg_iff_add_eq_zero, ← Nat.cast_add, ZMod.natCast_eq_zero_iff] at h
    obtain ⟨k, hk⟩ := h
    have hk2 : k < 2 := Nat.lt_of_mul_lt_mul_left (a := Config.p) (by omega)
    interval_cases k <;> omega

/-- Of two opposite roots the parity chooses one, for `p` is odd. -/
theorem root_of_parity {y t : Nat} {odd : Bool} (hy : y < Config.p) (ht : t < Config.p)
    (h : y * y % Config.p = t * t % Config.p) (hodd : y % 2 = odd.toNat) :
    (if t % 2 = odd.toNat then t else (Config.p - t) % Config.p) = y := by
  have hp : Config.p % 2 = 1 := by decide
  rcases eq_or_add_eq_p_of_sq hy ht h with rfl | hsum
  · rw [if_pos hodd]
  · have hne : t % 2 ≠ odd.toNat := by omega
    rw [if_neg hne, ← hsum, Nat.add_sub_cancel, hsum, Nat.mod_eq_of_lt hy]

/-- The lifted point takes the root of the asked parity. The equation is between functions: between their values, the kernel
would run the square root to compare the two sides. -/
theorem liftX_eq : liftX = fun x odd => (sqrtp ((x * x * x + 7) % Config.p)).map fun t =>
    .fin x (if t % 2 = odd.toNat then t else (Config.p - t) % Config.p) := by
  delta liftX
  funext x odd
  cases sqrtp ((x * x * x + 7) % Config.p) <;> rfl

theorem curve_polynomial (x : Nat) : x * x * x + 7 = x ^ 3 + 7 := by ring

theorem liftX_of_root {x y : Nat} {odd : Bool} (hy : y < Config.p) (h : y * y % Config.p = (x ^ 3 + 7) % Config.p)
    (hodd : y % 2 = odd.toNat) : liftX x odd = some (.fin x y) := by
  have hroot : HasRoot ((x ^ 3 + 7) % Config.p) := ⟨y, hy, h⟩
  have hsq := h.trans (rootCandidate_sq hroot).symm
  have hlt : rootCandidate ((x ^ 3 + 7) % Config.p) < Config.p := mod_p_lt_p _
  simp only [liftX_eq, curve_polynomial, sqrtp_of_root (mod_p_lt_p _) hroot, Option.map_some,
    root_of_parity hy hlt hsq hodd]

theorem liftX_of_no_root {x : Nat} (odd : Bool) (h : ¬HasRoot ((x ^ 3 + 7) % Config.p)) : liftX x odd = none := by
  simp only [liftX_eq, curve_polynomial, sqrtp_of_no_root (mod_p_lt_p _) h, Option.map_none]

theorem fromX_of_root {x y : Nat} {odd : Bool} (hx : x < Config.p) (hy : y < Config.p)
    (h : y * y % Config.p = (x ^ 3 + 7) % Config.p) (hodd : y % 2 = odd.toNat) : fromX x odd = .ok (.fin x y) := by
  rw [fromX, if_pos hx, liftX_of_root hy h hodd]

theorem fromX_of_no_root {x : Nat} (odd : Bool) (hx : x < Config.p) (h : ¬HasRoot ((x ^ 3 + 7) % Config.p)) :
    fromX x odd = .error .invalidPoint := by
  rw [fromX, if_pos hx, liftX_of_no_root odd h]

theorem fromX_of_range {x : Nat} (odd : Bool) (hx : Config.p ≤ x) : fromX x odd = .error .range := if_neg (Nat.not_lt.2 hx)

/-- A register's coordinate goes through its integer value unchanged. -/
theorem ofNat_toNat_word (v : Word) : BitVec.ofNat 256 v.toNat = v := by rw [BitVec.ofNat_toNat, BitVec.setWidth_eq]

/-- Settles O36: the three ends of `fromX`. -/
theorem pointFromX : Obligations.PointFromX := by
  intro s ad rx odd
  refine ⟨fun hx y hy h hodd => ?_, fun hx h => ?_, fun hx => ?_⟩
  · refine command_ok rfl ?_
    rw [fromX_of_root hx hy h hodd, ok_bind, APoint.ofPt, State.natR, ofNat_toNat_word]
  · exact command_error rfl (by rw [fromX_of_no_root odd hx h, error_bind])
  · exact command_error rfl (by rw [fromX_of_range odd hx, error_bind])

end Sys2Proof.Machine

/-! ## The Jacobian commands -/

namespace Sys2Proof.Machine

section Jacobian
variable {i : Instr} {s t : State} {aa : AIdx} {ja jb : JIdx}

theorem coordOperand_of_inf (h : (s.getA aa).inf = true) : coordOperand s aa = .ok .inf := if_pos h

theorem coordOperand_of_lt (hi : (s.getA aa).inf = false) (hx : (s.getA aa).x.toNat < Config.p)
    (hy : (s.getA aa).y.toNat < Config.p) :
    coordOperand s aa = .ok (.fin (s.getA aa).x.toNat (s.getA aa).y.toNat) := by
  have hin : ¬(Config.p ≤ (s.getA aa).x.toNat ∨ Config.p ≤ (s.getA aa).y.toNat) := by omega
  simp only [coordOperand, hi, Bool.false_eq_true, if_false, hin]

theorem coordOperand_of_range (hi : (s.getA aa).inf = false)
    (h : Config.p ≤ (s.getA aa).x.toNat ∨ Config.p ≤ (s.getA aa).y.toNat) : coordOperand s aa = .error .range := by
  simp only [coordOperand, hi, Bool.false_eq_true, if_false, h, if_true]

theorem jacCanonical_iff (q : JPoint) :
    jacCanonical q = true ↔ q.X.toNat < Config.p ∧ q.Y.toNat < Config.p ∧ q.Z.toNat < Config.p := by
  simp [jacCanonical, and_assoc]

theorem jacOperand_of_canonical (h : jacCanonical (s.getJ ja) = true) : jacOperand s ja = .ok (s.getJ ja).toJac :=
  if_pos ((jacCanonical_iff _).1 h)

theorem jacOperand_of_not_canonical (h : jacCanonical (s.getJ ja) = false) : jacOperand s ja = .error .range :=
  if_neg fun hc => Bool.eq_false_iff.1 h ((jacCanonical_iff _).2 hc)

theorem command_triple_ok {f : Jac → Except ErrCode State} (hw : i.wellFormed = true)
    (h : jacCanonical (s.getJ ja) = true) (hf : f (s.getJ ja).toJac = .ok t) :
    command i s (jacOperand s ja >>= f) = .next t :=
  command_ok hw (by rw [jacOperand_of_canonical h, ok_bind, hf])

theorem command_triple_range {f : Jac → Except ErrCode State} (hw : i.wellFormed = true)
    (h : jacCanonical (s.getJ ja) = false) :
    command i s (jacOperand s ja >>= f) = .next (faultEntry .range (encode i) s) :=
  command_error hw (by rw [jacOperand_of_not_canonical h, error_bind])

/-- A triple that is not canonical faults as the first and as the second operand. -/
theorem command_two_triples_range {f : Jac → Jac → Except ErrCode State} (hw : i.wellFormed = true)
    (h : jacCanonical (s.getJ ja) = false ∨ jacCanonical (s.getJ jb) = false) :
    command i s (jacOperand s ja >>= fun q1 => jacOperand s jb >>= f q1) = .next (faultEntry .range (encode i) s) := by
  cases ha : jacCanonical (s.getJ ja) with
  | false => exact command_triple_range hw ha
  | true =>
    have hb : jacCanonical (s.getJ jb) = false := h.resolve_left (by simp [ha])
    exact command_error hw (by rw [jacOperand_of_canonical ha, ok_bind, jacOperand_of_not_canonical hb, error_bind])

end Jacobian

/-- The opposite triple in a register: `JINF`, or `Y` alone replaced (41_point.md R95). -/
theorem ofJac_neg_toJac {q : JPoint} (hY : q.Y.toNat < Config.p) :
    JPoint.ofJac q.toJac.neg =
      if q.Z = 0 then { X := 0, Y := 1, Z := 0 }
      else { q with Y := BitVec.ofNat 256 ((Config.p - q.Y.toNat) % Config.p) } := by
  by_cases hZ : q.Z = 0
  · have hz : q.toJac.Z = 0 := by simp [JPoint.toJac, hZ]
    rw [if_pos hZ, Jac.neg, if_pos hz]
    rfl
  · have hz : q.toJac.Z ≠ 0 := fun h => hZ (BitVec.eq_of_toNat_eq h)
    rw [if_neg hZ, Jac.neg, if_neg hz]
    simp only [JPoint.ofJac, JPoint.toJac, subP, Nat.zero_add, Nat.mod_eq_of_lt hY, ofNat_toNat_word]

/-- Settles O40: the operand tests of the five commands; each result is its formula's triple. -/
theorem jacobianCommands : Obligations.JacobianCommands := by
  intro s ad aa jd ja jb
  refine ⟨fun hi => ?_, fun hi hx hy => ?_, fun hi h => ?_, fun h => ⟨?_, ?_, ?_⟩, fun h => ⟨?_, ?_, ?_⟩,
    fun ha hb => ?_, fun h => ?_⟩
  · exact command_ok rfl (by rw [coordOperand_of_inf hi]; rfl)
  · refine command_ok rfl ?_
    rw [coordOperand_of_lt hi hx hy, ok_bind, Jac.ofAffine, JPoint.ofJac, ofNat_toNat_word, ofNat_toNat_word]
    rfl
  · exact command_error rfl (by rw [coordOperand_of_range hi h, error_bind])
  · exact command_triple_ok rfl h rfl
  · exact command_triple_ok rfl h rfl
  · have hY := ((jacCanonical_iff _).1 h).2.1
    exact command_triple_ok rfl h (by rw [ofJac_neg_toJac hY])
  · exact command_triple_range rfl h
  · exact command_triple_range rfl h
  · exact command_triple_range rfl h
  · exact command_triple_ok rfl ha (by rw [jacOperand_of_canonical hb, ok_bind])
  · exact command_two_triples_range rfl h

end Sys2Proof.Machine

/-! ## Byte strings (00_scope.md R12) -/

namespace Sys2Proof.Machine

/-- Reading on from `acc`, the big-endian string of `v` appends its digits. -/
theorem foldl_tobe (v len acc : Nat) :
    (tobe v len).foldl (fun acc b => acc * 256 + b.toNat) acc = acc * 256 ^ len + v % 256 ^ len := by
  induction len generalizing acc with
  | zero => simp [tobe, Nat.mod_one]
  | succ len ih =>
    rw [tobe, List.foldl_cons, ih, BitVec.toNat_ofNat, Nat.mod_pow_succ (b := 256)]
    ring

/-- The value of a big-endian string is the value it was made of. -/
theorem be_tobe {v len : Nat} (h : v < 256 ^ len) : be (tobe v len) = v := by
  rw [be, foldl_tobe, Nat.zero_mul, Nat.zero_add, Nat.mod_eq_of_lt h]

theorem be_tobe_coordinate {v : Nat} (h : v < Config.p) : be (tobe v 32) = v :=
  be_tobe (h.trans (by decide))

/-- A part of a byte string in DBUF. -/
theorem Memory.readBytes_slice (m : Memory) (off : Nat) {len k l : Nat} (h : k + l ≤ len) :
    m.readBytes (off + k) l = ((m.readBytes off len).drop k).take l := by
  refine List.ext_getElem (by simp; omega) fun i h1 h2 => ?_
  simp only [Memory.readBytes_getElem, List.getElem_take, List.getElem_drop, Nat.add_assoc]

/-- The first byte of a byte string in DBUF. -/
theorem Memory.readBytes_head (m : Memory) (off : Nat) {len : Nat} (h : 0 < len) :
    (m.readBytes off len).getD 0 0 = m.read off := by
  cases len with
  | zero => exact absurd h (Nat.lt_irrefl 0)
  | succ len => rfl

/-- A stored byte string reads back, with its length given by a number. -/
theorem Memory.readBytes_writeBytes_of_length {m : Memory} {off len : Nat} {bs : List Byte} (hw : m.wf = true)
    (hl : bs.length = len) (h : off + len ≤ Config.dbufBytes) : (m.writeBytes off bs).readBytes off len = bs := by
  subst hl
  exact Memory.readBytes_writeBytes hw h

section Buffer
variable {s : State} {off len : Nat}

theorem require_false {c : Prop} [Decidable c] {e : ErrCode} (h : ¬c) : require c e = .error e := if_neg h

theorem checkBuf_of_le (h : off + len ≤ 512) : checkBuf off len = .ok () := require_true h

theorem checkBuf_of_lt (h : 512 < off + len) : checkBuf off len = .error .bufRange :=
  require_false (Nat.not_le.2 h)

theorem bufOperand_of_le (h : off + len ≤ 512) : bufOperand s off len = .ok (s.memRead off len) :=
  bufOperand_eq_ok.2 ⟨h, rfl⟩

theorem bufOperand_of_lt (h : 512 < off + len) : bufOperand s off len = .error .bufRange := by
  rw [bufOperand, checkBuf_of_lt h, error_bind]

end Buffer

/-! ## SEC1 strings (41_point.md R103, R104, R110) -/

/-- A compressed form: its first byte and its length (R103). -/
def Sec1Compressed (bytes : List Byte) : Prop :=
  ((bytes.getD 0 0).toNat = 2 ∨ (bytes.getD 0 0).toNat = 3) ∧ bytes.length = 33

/-- A 65-byte form: uncompressed, or hybrid with the parity of the last byte (R103). -/
def Sec1Full (bytes : List Byte) : Prop :=
  bytes.length = 65 ∧ ((bytes.getD 0 0).toNat = 4 ∨
    ((bytes.getD 0 0).toNat = 6 ∧ (bytes.getD 64 0).toNat % 2 = 0) ∨
    ((bytes.getD 0 0).toNat = 7 ∧ (bytes.getD 64 0).toNat % 2 = 1))

theorem toNat_mod_two (k : Nat) : (k % 2 == 1).toNat = k % 2 := by
  rcases Nat.mod_two_eq_zero_or_one k with h | h <;> rw [h] <;> rfl

section Sec1
variable {bytes : List Byte}

theorem sec1Decode_of_compressed (h : Sec1Compressed bytes) :
    sec1Decode bytes = fromX (be ((bytes.drop 1).take 32)) ((bytes.getD 0 0).toNat % 2 == 1) :=
  if_pos ⟨h.1.imp BitVec.eq_of_toNat_eq BitVec.eq_of_toNat_eq, h.2⟩

theorem sec1Decode_of_full (h : Sec1Full bytes) :
    sec1Decode bytes =
      if be ((bytes.drop 1).take 32) < Config.p ∧ be ((bytes.drop 33).take 32) < Config.p then
        .ok (.fin (be ((bytes.drop 1).take 32)) (be ((bytes.drop 33).take 32)))
      else .error .range := by
  obtain ⟨hlen, hpf⟩ := h
  rcases hpf with h4 | ⟨h6, hlast⟩ | ⟨h7, hlast⟩
  · have hpf : bytes.getD 0 0 = 4 := BitVec.eq_of_toNat_eq h4
    simp only [sec1Decode, hpf, hlen]
    rw [if_neg (by decide), if_pos (by decide), if_neg (by simp), if_neg (by simp)]
  · have hpf : bytes.getD 0 0 = 6 := BitVec.eq_of_toNat_eq h6
    simp only [sec1Decode, hpf, hlen, hlast]
    rw [if_neg (by decide), if_pos (by decide), if_neg (by decide), if_neg (by decide)]
  · have hpf : bytes.getD 0 0 = 7 := BitVec.eq_of_toNat_eq h7
    simp only [sec1Decode, hpf, hlen, hlast]
    rw [if_neg (by decide), if_pos (by decide), if_neg (by decide), if_neg (by decide)]

theorem sec1Decode_of_bad_format (hc : ¬Sec1Compressed bytes) (hf : ¬Sec1Full bytes) :
    sec1Decode bytes = .error .pointFormat := by
  have hc' : ¬((bytes.getD 0 0 = 2 ∨ bytes.getD 0 0 = 3) ∧ bytes.length = 33) :=
    fun h => hc ⟨h.1.imp (congrArg BitVec.toNat) (congrArg BitVec.toNat), h.2⟩
  rw [sec1Decode, if_neg hc']
  by_cases hform : (bytes.getD 0 0 = 4 ∨ bytes.getD 0 0 = 6 ∨ bytes.getD 0 0 = 7) ∧ bytes.length = 65
  · rw [if_pos hform]
    obtain ⟨h4 | h6 | h7, hlen⟩ := hform
    · exact absurd ⟨hlen, .inl (congrArg BitVec.toNat h4)⟩ hf
    · have hlast : (bytes.getD 64 0).toNat % 2 ≠ 0 :=
        fun h => hf ⟨hlen, .inr (.inl ⟨congrArg BitVec.toNat h6, h⟩)⟩
      exact if_pos ⟨h6, hlast⟩
    · have hlast : (bytes.getD 64 0).toNat % 2 ≠ 1 :=
        fun h => hf ⟨hlen, .inr (.inr ⟨congrArg BitVec.toNat h7, h⟩)⟩
      have h6 : bytes.getD 0 0 ≠ 6 := by rw [h7]; decide
      exact (if_neg fun h => h6 h.1).trans (if_pos ⟨h7, hlast⟩)
  · exact if_neg hform

end Sec1

section Encode
variable (x y : Nat) {len : Nat}

/-- The first byte of a SEC1 string (R104). -/
def sec1Head (y len : Nat) : Nat := if len = 33 then 2 + y % 2 else 4

theorem sec1Encode_head (h : len = 33 ∨ len = 65) :
    (sec1Encode x y len).getD 0 0 = BitVec.ofNat 8 (sec1Head y len) := by
  rcases h with rfl | rfl <;> rfl

theorem toNat_sec1Head (y len : Nat) : (BitVec.ofNat 8 (sec1Head y len)).toNat = sec1Head y len := by
  rw [BitVec.toNat_ofNat]
  refine Nat.mod_eq_of_lt ?_
  unfold sec1Head
  split <;> omega

theorem sec1Encode_x (h : len = 33 ∨ len = 65) : ((sec1Encode x y len).drop 1).take 32 = tobe x 32 := by
  rcases h with rfl | rfl
  · exact List.take_of_length_le (length_tobe x 32).le
  · exact List.take_left' (length_tobe x 32)

theorem sec1Encode_y : ((sec1Encode x y 65).drop 33).take 32 = tobe y 32 := by
  have hdrop : (sec1Encode x y 65).drop 33 = tobe y 32 := List.drop_left' (length_tobe x 32)
  rw [hdrop]
  exact List.take_of_length_le (length_tobe y 32).le

/-- Decoding inverts encoding on the finite curve points (R111). -/
theorem sec1Decode_sec1Encode {x y : Nat} (hxy : onCurve x y = true) (h : len = 33 ∨ len = 65) :
    sec1Decode (sec1Encode x y len) = .ok (.fin x y) := by
  obtain ⟨hx, hy, hc⟩ := of_decide_eq_true ((onCurve_eq x y).symm.trans hxy)
  have hpf : ((sec1Encode x y len).getD 0 0).toNat = sec1Head y len := by rw [sec1Encode_head x y h, toNat_sec1Head]
  have hbx : be (((sec1Encode x y len).drop 1).take 32) = x := by rw [sec1Encode_x x y h, be_tobe_coordinate hx]
  rcases h with rfl | rfl
  · have htwo : sec1Head y 33 = 2 ∨ sec1Head y 33 = 3 := by rw [sec1Head, if_pos rfl]; omega
    have hform : Sec1Compressed (sec1Encode x y 33) := ⟨by rwa [hpf], length_sec1Encode x y (.inl rfl)⟩
    rw [sec1Decode_of_compressed hform, hbx]
    refine fromX_of_root hx hy (by rwa [← pow_two]) ?_
    rw [toNat_mod_two, hpf, sec1Head, if_pos rfl, Nat.add_mod_left, Nat.mod_mod]
  · have hform : Sec1Full (sec1Encode x y 65) := ⟨length_sec1Encode x y (.inr rfl), .inl hpf⟩
    have hby : be (((sec1Encode x y 65).drop 33).take 32) = y := by rw [sec1Encode_y, be_tobe_coordinate hy]
    rw [sec1Decode_of_full hform, hbx, hby, if_pos ⟨hx, hy⟩]

end Encode

/-! ## The codec commands -/

section Codec
variable {s : State} {ad aa : AIdx} {off : Off} {len : Byte}

theorem exec_pdec_of_ok {q : Pt} (h : off.toNat + len.toNat ≤ 512)
    (hq : sec1Decode (s.memRead off.toNat len.toNat) = .ok q) :
    exec (.pdec ad off len) s = .next (s.setA ad (APoint.ofPt q)) :=
  command_ok rfl (by rw [bufOperand_of_le h, ok_bind, hq, ok_bind])

theorem raises_pdec_of_error {e : ErrCode} (h : off.toNat + len.toNat ≤ 512)
    (he : sec1Decode (s.memRead off.toNat len.toNat) = .error e) : Raises (.pdec ad off len) s e :=
  command_error rfl (by rw [bufOperand_of_le h, ok_bind, he, error_bind])

theorem penc_wellFormed_of_length (hlen : len.toNat = 33 ∨ len.toNat = 65) :
    (Instr.penc aa off len).wellFormed = true := by
  simp [Instr.wellFormed, Instr.check, pencLenOk, hlen]

theorem exec_penc (hlen : len.toNat = 33 ∨ len.toNat = 65) (h : off.toNat + len.toNat ≤ 512)
    (hi : (s.getA aa).inf = false) (hx : (s.getA aa).x.toNat < Config.p) (hy : (s.getA aa).y.toNat < Config.p) :
    exec (.penc aa off len) s =
      .next (s.memWrite off.toNat (sec1Encode (s.getA aa).x.toNat (s.getA aa).y.toNat len.toNat)) := by
  refine command_ok (penc_wellFormed_of_length hlen) ?_
  rw [checkBuf_of_le h, ok_bind, finiteOperand_of_finite hi, ok_bind, require_true ⟨hx, hy⟩, ok_bind]

/-- What `PENC` stores reads back whole. -/
theorem readBytes_sec1Encode {m : Memory} {off len : Nat} (x y : Nat) (hm : m.wf = true) (hlen : len = 33 ∨ len = 65)
    (h : off + len ≤ 512) : (m.writeBytes off (sec1Encode x y len)).readBytes off len = sec1Encode x y len :=
  Memory.readBytes_writeBytes_of_length hm (length_sec1Encode x y hlen) h

end Codec

theorem APoint.ofPt_toPt {q : APoint} (h : q.inf = false) : APoint.ofPt q.toPt = q := by
  cases q with
  | mk x y inf =>
    subst h
    simp [APoint.toPt, APoint.ofPt]

/-- Settles O37: the ends of `sec1Decode` on the bytes of the buffer. -/
theorem pointDecode : Obligations.PointDecode := by
  intro s ad off len
  refine ⟨fun h => command_error rfl (by rw [bufOperand_of_lt h, error_bind]), fun h => ?_⟩
  intro B x y pf compressed full
  have hlen : B.length = len.toNat := Memory.readBytes_length _ _ _
  have hc : Sec1Compressed B ↔ compressed := by rw [Sec1Compressed, hlen]
  have hf : Sec1Full B ↔ full := by rw [Sec1Full, hlen]
  rw [← hc, ← hf]
  refine ⟨fun hnc hnf => ?_, fun hfull hr => ?_, fun hfull hx hy => ?_, fun hcomp hx => ?_, fun hcomp hx hno => ?_,
    fun hcomp hx y hy hroot hodd => ?_⟩
  · exact raises_pdec_of_error h (sec1Decode_of_bad_format hnc hnf)
  · exact raises_pdec_of_error h ((sec1Decode_of_full hfull).trans (if_neg (by omega)))
  · exact exec_pdec_of_ok h ((sec1Decode_of_full hfull).trans (if_pos ⟨hx, hy⟩))
  · exact raises_pdec_of_error h ((sec1Decode_of_compressed hcomp).trans (fromX_of_range _ hx))
  · exact raises_pdec_of_error h ((sec1Decode_of_compressed hcomp).trans (fromX_of_no_root _ hx hno))
  · have hparity : y % 2 = (pf % 2 == 1).toNat := hodd.trans (toNat_mod_two pf).symm
    exact exec_pdec_of_ok h ((sec1Decode_of_compressed hcomp).trans (fromX_of_root hx hy hroot hparity))

/-- Settles O38: the tests in the rule's order; the stored bytes read back as the string, part by part. -/
theorem pointEncode : Obligations.PointEncode := by
  intro s aa off len hlen q
  have hw : (Instr.penc aa off len).wellFormed = true := penc_wellFormed_of_length hlen
  refine ⟨fun h => ?_, fun h hi => ?_, fun h hi hr => ?_, fun h hi hx hy hm => ?_⟩
  · exact command_error hw (by rw [checkBuf_of_lt h, error_bind])
  · exact command_error hw (by rw [checkBuf_of_le h, ok_bind, finiteOperand_of_inf hi, error_bind])
  · have hout : ¬(q.x.toNat < Config.p ∧ q.y.toNat < Config.p) := by omega
    refine command_error hw ?_
    rw [checkBuf_of_le h, ok_bind, finiteOperand_of_finite hi, ok_bind, require_false hout, error_bind]
  · have hread := readBytes_sec1Encode q.x.toNat q.y.toNat hm hlen h
    have hl := length_sec1Encode q.x.toNat q.y.toNat hlen
    refine ⟨_, exec_penc hlen h hi hx hy, ?_, ?_, fun h65 => ?_, fun addr haddr => ?_⟩
    · rw [← Memory.readBytes_head _ _ (len := len.toNat) (by omega), hread, sec1Encode_head _ _ hlen, toNat_sec1Head]
      rfl
    · rw [Memory.readBytes_slice _ _ (len := len.toNat) (by omega), hread, sec1Encode_x _ _ hlen, be_tobe_coordinate hx]
    · rw [Memory.readBytes_slice _ _ (len := len.toNat) (by omega), hread, h65, sec1Encode_y, be_tobe_coordinate hy]
    · exact Memory.read_writeBytes_outside _ (by rwa [hl])

/-- Settles O39: the bytes read back, and decoding inverts encoding. -/
theorem encodedPointsDecodeToThemselves : Obligations.EncodedPointsDecodeToThemselves := by
  intro s ad aa off len hm hlen h hi hwf
  have hpt : (s.getA aa).toPt = .fin (s.getA aa).x.toNat (s.getA aa).y.toNat := by rw [APoint.toPt, if_neg (by simp [hi])]
  have hc : onCurve (s.getA aa).x.toNat (s.getA aa).y.toNat = true := by rwa [hpt] at hwf
  obtain ⟨hx, hy, -⟩ := of_decide_eq_true ((onCurve_eq _ _).symm.trans hc)
  have hread := readBytes_sec1Encode (s.getA aa).x.toNat (s.getA aa).y.toNat hm hlen h
  have hdec := (congrArg sec1Decode hread).trans (sec1Decode_sec1Encode hc hlen)
  refine ⟨_, _, exec_penc hlen h hi hx hy, exec_pdec_of_ok h hdec, ?_⟩
  rw [getA_setA_self, ← hpt, APoint.ofPt_toPt hi]

end Sys2Proof.Machine

/-! ## The wNAF recoder (42_scalarmul.md R131 to R133) -/

namespace Sys2Proof.Machine

/-- The scalar the recoding loop goes on with, after it has taken a digit (R131). -/
def wnafNext (w k : Nat) : Nat := ((k : Int) - wnafDigit w k).toNat / 2

@[simp] theorem wnafLoop_at_zero (w fuel : Nat) : wnafLoop w fuel 0 = [] := by
  cases fuel <;> rfl

theorem wnafLoop_succ {k : Nat} (w fuel : Nat) (hk : k ≠ 0) :
    wnafLoop w (fuel + 1) k = wnafDigit w k :: wnafLoop w fuel (wnafNext w k) := if_neg hk

theorem wnafDigit_of_even {k : Nat} (w : Nat) (h : k % 2 = 0) : wnafDigit w k = 0 := if_pos h

/-- The digit of an odd scalar is its balanced residue modulo `2^w`: an odd residue is not the tie `2^(w-1)`. -/
theorem wnafDigit_of_odd {w k : Nat} (hw : 2 ≤ w) (h : k % 2 = 1) : wnafDigit w k = (k : Int).bmod (2 ^ w) := by
  obtain ⟨v, rfl⟩ : ∃ v, w = v + 2 := ⟨w - 2, by omega⟩
  have hodd : k % 2 ^ (v + 2) % 2 = 1 := by rw [Nat.mod_mod_of_dvd k (dvd_pow_self 2 (by omega)), h]
  have hhalf : 2 ^ (v + 2 - 1) = 2 * 2 ^ v := by rw [Nat.add_sub_assoc (by decide), pow_succ, mul_comm]
  have hfull : 2 ^ (v + 2) = 4 * 2 ^ v := by ring
  rw [wnafDigit, if_neg (by omega), Int.bmod_def, ← Int.natCast_emod]
  generalize k % 2 ^ (v + 2) = z at *
  dsimp only
  split_ifs <;> push_cast <;> omega

theorem wnafLoop_two_mul {k : Nat} (w fuel : Nat) (hk : k ≠ 0) :
    wnafLoop w (fuel + 1) (2 * k) = 0 :: wnafLoop w fuel k := by
  have hdigit : wnafDigit w (2 * k) = 0 := wnafDigit_of_even w (Nat.mul_mod_right 2 k)
  have hnext : wnafNext w (2 * k) = k := by
    unfold wnafNext
    omega
  rw [wnafLoop_succ w fuel (by omega), hdigit, hnext]

/-! The digit is known by two facts: what it leaves is even, and a multiple of `2^w` of an odd scalar; and it is within the
window. -/

theorem le_of_dvd_of_lt_add {d x y : Int} (hx : d ∣ x) (hy : d ∣ y) (h : x < y + d) : x ≤ y := by
  by_contra hlt
  have := Int.le_of_dvd (by omega) (dvd_sub hx hy)
  omega

section Digit
variable {w : Nat} (hw : 2 ≤ w) (k : Nat)
include hw

theorem two_pow_dvd_sub_wnafDigit (h : k % 2 = 1) : (2 ^ w : Int) ∣ k - wnafDigit w k := by
  rw [wnafDigit_of_odd hw h]
  exact_mod_cast Int.dvd_self_sub_bmod (x := (k : Int)) (m := 2 ^ w)

theorem two_dvd_sub_wnafDigit : (2 : Int) ∣ k - wnafDigit w k := by
  rcases Nat.mod_two_eq_zero_or_one k with h | h
  · rw [wnafDigit_of_even w h]
    omega
  · exact (dvd_pow_self 2 (by omega)).trans (two_pow_dvd_sub_wnafDigit hw k h)

theorem wnafDigit_eq_zero_or_odd : wnafDigit w k = 0 ∨ wnafDigit w k % 2 = 1 := by
  rcases Nat.mod_two_eq_zero_or_one k with h | h
  · exact .inl (wnafDigit_of_even w h)
  · have := two_dvd_sub_wnafDigit hw k
    exact .inr (by omega)

theorem abs_wnafDigit_le : |wnafDigit w k| ≤ 2 ^ (w - 1) - 1 := by
  obtain ⟨v, rfl⟩ : ∃ v, w = v + 2 := ⟨w - 2, by omega⟩
  have hpos : (0 : Int) < 2 ^ v := by positivity
  have hhalf : (2 ^ (v + 2 - 1) : Int) = 2 * 2 ^ v := by rw [Nat.add_sub_assoc (by decide), pow_succ, mul_comm]
  rw [hhalf]
  rcases Nat.mod_two_eq_zero_or_one k with h | h
  · rw [wnafDigit_of_even _ h, abs_zero]
    omega
  · have hodd := wnafDigit_eq_zero_or_odd hw k
    have hlo := Int.le_bmod (x := (k : Int)) (m := 2 ^ (v + 2)) (by positivity)
    have hhi := Int.bmod_lt (x := (k : Int)) (m := 2 ^ (v + 2)) (by positivity)
    rw [← wnafDigit_of_odd hw h] at hlo hhi
    push_cast [pow_add] at hlo hhi
    refine abs_le.2 ⟨?_, ?_⟩ <;> omega

theorem two_pow_eq_two_mul_half : (2 ^ w : Int) = 2 * 2 ^ (w - 1) := by
  rw [← pow_succ', Nat.sub_add_cancel (by omega)]

theorem wnafDigit_le : wnafDigit w k ≤ k := by
  rcases Nat.mod_two_eq_zero_or_one k with h | h
  · rw [wnafDigit_of_even w h]
    exact Int.natCast_nonneg k
  · have hrest := two_pow_dvd_sub_wnafDigit hw k h
    have hdigit := abs_le.1 (abs_wnafDigit_le hw k)
    have hpow := two_pow_eq_two_mul_half hw
    exact sub_nonneg.1 (le_of_dvd_of_lt_add (dvd_zero _) hrest (by omega))

/-- The scalar is its digit and twice the scalar the loop goes on with. -/
theorem wnafDigit_add_wnafNext : wnafDigit w k + 2 * (wnafNext w k : Int) = k := by
  have heven := two_dvd_sub_wnafDigit hw k
  have hle := wnafDigit_le hw k
  unfold wnafNext
  omega

/-- What a digit leaves fits one digit less (R132 (e)): a negative digit, which makes the scalar grow, leaves a multiple of
`2^w`. -/
theorem wnafNext_le {fuel : Nat} (h : 2 * k ≤ 2 ^ (fuel + 1)) : 2 * wnafNext w k ≤ 2 ^ fuel := by
  have hnext := wnafDigit_add_wnafNext hw k
  have hk : k ≤ 2 ^ fuel := by rw [pow_succ] at h; omega
  by_cases hneg : wnafDigit w k < 0
  · have hodd : k % 2 = 1 := by
      by_contra he
      rw [wnafDigit_of_even w (by omega)] at hneg
      exact lt_irrefl _ hneg
    have hrest := two_pow_dvd_sub_wnafDigit hw k hodd
    have hdigit := abs_le.1 (abs_wnafDigit_le hw k)
    have hpow := two_pow_eq_two_mul_half hw
    have hfuel : w ≤ fuel := by
      by_contra hlt
      have hsmall : 2 ^ fuel ≤ 2 ^ (w - 1) := Nat.pow_le_pow_right (by decide) (by omega)
      have hzero := le_of_dvd_of_lt_add hrest (dvd_zero _) (by zify at hsmall hk; omega)
      omega
    have hle := le_of_dvd_of_lt_add hrest (pow_dvd_pow (2 : Int) hfuel) (by zify at hk; omega)
    zify
    omega
  · omega

end Digit

/-! ## The digits of a scalar (R132) -/

/-- The number that digits stand for, the least significant one first (R131). -/
def digitSum (ds : List Int) : Int := ds.foldr (fun d acc => d + 2 * acc) 0

@[simp] theorem digitSum_nil : digitSum [] = 0 := rfl

@[simp] theorem digitSum_cons (d : Int) (ds : List Int) : digitSum (d :: ds) = d + 2 * digitSum ds := rfl

/-- The fuel of `wnaf` is enough for its scalar. -/
theorem two_mul_le_wnaf_fuel (k : Nat) : 2 * k ≤ 2 ^ (bitlen k + 1) := by
  have := lt_two_pow_bitlen k
  rw [pow_succ]
  omega

section Loop
variable {w : Nat} (hw : 2 ≤ w)

theorem mem_wnafLoop {fuel k : Nat} {d : Int} (h : d ∈ wnafLoop w fuel k) : ∃ k', d = wnafDigit w k' := by
  induction fuel generalizing k with
  | zero => simp [wnafLoop] at h
  | succ fuel ih =>
    by_cases hk : k = 0
    · simp [hk] at h
    · rw [wnafLoop_succ w fuel hk, List.mem_cons] at h
      rcases h with rfl | h
      · exact ⟨k, rfl⟩
      · exact ih h

theorem wnafLoop_eq_nil_iff {fuel k : Nat} (h : 2 * k ≤ 2 ^ fuel) : wnafLoop w fuel k = [] ↔ k = 0 := by
  by_cases hk : k = 0
  · simp [hk]
  · cases fuel with
    | zero => omega
    | succ fuel => simp [wnafLoop_succ w fuel hk, hk]

/-- A scalar divisible by `2^m` has `m` zero digits at the bottom. -/
theorem wnafLoop_getD_of_dvd {fuel k m j : Nat} (h : 2 ^ m ∣ k) (hj : j < m) : (wnafLoop w fuel k).getD j 0 = 0 := by
  induction fuel generalizing k m j with
  | zero => simp [wnafLoop]
  | succ fuel ih =>
    by_cases hk : k = 0
    · simp [hk]
    · obtain ⟨m, rfl⟩ : ∃ n, m = n + 1 := ⟨m - 1, by omega⟩
      obtain ⟨c, rfl⟩ := h
      rw [pow_succ', mul_assoc] at hk ⊢
      rw [wnafLoop_two_mul w fuel (by omega)]
      cases j with
      | zero => rfl
      | succ j => exact ih (dvd_mul_right _ _) (by omega)

include hw

theorem digitSum_wnafLoop {fuel k : Nat} (h : 2 * k ≤ 2 ^ fuel) : digitSum (wnafLoop w fuel k) = k := by
  induction fuel generalizing k with
  | zero =>
    have hk : k = 0 := by omega
    simp [hk]
  | succ fuel ih =>
    by_cases hk : k = 0
    · simp [hk]
    · rw [wnafLoop_succ w fuel hk, digitSum_cons, ih (wnafNext_le hw k h), wnafDigit_add_wnafNext hw]

/-- After a non-zero digit the next `w - 1` digits are zero (R132 (c)). -/
theorem wnafLoop_nonadjacent {fuel k i j : Nat} (hi : (wnafLoop w fuel k).getD i 0 ≠ 0) (hij : i < j) (hj : j < i + w) :
    (wnafLoop w fuel k).getD j 0 = 0 := by
  induction fuel generalizing k i j with
  | zero => simp [wnafLoop]
  | succ fuel ih =>
    by_cases hk : k = 0
    · simp [hk]
    · obtain ⟨j, rfl⟩ : ∃ n, j = n + 1 := ⟨j - 1, by omega⟩
      rw [wnafLoop_succ w fuel hk] at hi ⊢
      rw [List.getD_cons_succ]
      cases i with
      | zero =>
        have hodd : k % 2 = 1 := by
          by_contra he
          exact hi (wnafDigit_of_even w (by omega))
        have hrest := two_pow_dvd_sub_wnafDigit hw k hodd
        have hdvd : 2 ^ (w - 1) ∣ wnafNext w k := by
          rw [← wnafDigit_add_wnafNext hw k, add_sub_cancel_left, two_pow_eq_two_mul_half hw,
            mul_dvd_mul_iff_left two_ne_zero] at hrest
          exact_mod_cast hrest
        exact wnafLoop_getD_of_dvd hdvd (by omega)
      | succ i => exact ih hi (by omega) (by omega)

/-- The last digit is positive (R132 (d)): nothing is left after it. -/
theorem wnafLoop_getLast_pos {fuel k : Nat} {d : Int} (h : 2 * k ≤ 2 ^ fuel) (hd : (wnafLoop w fuel k).getLast? = some d) :
    0 < d := by
  induction fuel generalizing k with
  | zero => simp [wnafLoop] at hd
  | succ fuel ih =>
    by_cases hk : k = 0
    · simp [hk] at hd
    · have hnext := wnafNext_le hw k h
      rw [wnafLoop_succ w fuel hk] at hd
      cases hl : wnafLoop w fuel (wnafNext w k) with
      | nil =>
        have hsum := wnafDigit_add_wnafNext hw k
        rw [(wnafLoop_eq_nil_iff hnext).1 hl] at hsum
        rw [hl, List.getLast?_singleton, Option.some_inj] at hd
        omega
      | cons e es =>
        rw [hl, List.getLast?_cons_cons, ← hl] at hd
        exact ih hnext hd

theorem wnafLoop_one (fuel : Nat) : wnafLoop w (fuel + 1) 1 = [1] := by
  have hdigit : wnafDigit w 1 = 1 := by
    have hmod : 1 % 2 ^ w = 1 := Nat.one_mod_two_pow (by omega)
    have hhalf : 1 ≤ 2 ^ (w - 1) := Nat.one_le_two_pow
    simp [wnafDigit, hmod, hhalf.not_gt]
  have hnext : wnafNext w 1 = 0 := by
    unfold wnafNext
    omega
  rw [wnafLoop_succ w fuel one_ne_zero, hdigit, hnext, wnafLoop_at_zero]

/-- The only non-zero digit of a power of two is the last one. -/
theorem wnafLoop_two_pow {m fuel : Nat} (h : m < fuel) : wnafLoop w fuel (2 ^ m) = List.replicate m 0 ++ [1] := by
  obtain ⟨fuel, rfl⟩ : ∃ f, fuel = f + 1 := ⟨fuel - 1, by omega⟩
  induction m generalizing fuel with
  | zero => exact wnafLoop_one hw fuel
  | succ m ih =>
    obtain ⟨fuel, rfl⟩ : ∃ f, fuel = f + 1 := ⟨fuel - 1, by omega⟩
    rw [pow_succ', wnafLoop_two_mul w _ (by positivity), ih fuel (by omega), List.replicate_succ, List.cons_append]

/-- A scalar one below a power of two takes the digit -1 and goes on with the power below. -/
theorem wnaf_two_pow_sub_one {m : Nat} (hm : w ≤ m + 1) :
    wnaf (2 ^ (m + 1) - 1) w = -1 :: (List.replicate m 0 ++ [1]) := by
  have hpos : 0 < 2 ^ m := by positivity
  have hpow : 2 ^ (m + 1) = 2 * 2 ^ m := pow_succ' 2 m
  have hdigit : wnafDigit w (2 ^ (m + 1) - 1) = -1 := by
    have hrest := two_pow_dvd_sub_wnafDigit hw (2 ^ (m + 1) - 1) (by omega)
    have habs := abs_le.1 (abs_wnafDigit_le hw (2 ^ (m + 1) - 1))
    have hhalf := two_pow_eq_two_mul_half hw
    have hdvd : (2 ^ w : Int) ∣ wnafDigit w (2 ^ (m + 1) - 1) + 1 := by
      have hdiff : wnafDigit w (2 ^ (m + 1) - 1) + 1 =
          2 ^ (m + 1) - (((2 ^ (m + 1) - 1 : Nat) : Int) - wnafDigit w (2 ^ (m + 1) - 1)) := by
        push_cast [Nat.one_le_two_pow]
        ring
      rw [hdiff]
      exact dvd_sub (pow_dvd_pow (2 : Int) hm) hrest
    exact eq_neg_of_add_eq_zero_left (Int.eq_zero_of_abs_lt_dvd hdvd (abs_lt.2 ⟨by omega, by omega⟩))
  have hnext : wnafNext w (2 ^ (m + 1) - 1) = 2 ^ m := by
    have := wnafDigit_add_wnafNext hw (2 ^ (m + 1) - 1)
    omega
  have hfuel : m < bitlen (2 ^ (m + 1) - 1) := by
    have := lt_two_pow_bitlen (2 ^ (m + 1) - 1)
    exact (Nat.pow_lt_pow_iff_right (by decide : 1 < 2)).1 (by omega)
  rw [wnaf, wnafLoop_succ w _ (by omega), hdigit, hnext, wnafLoop_two_pow hw hfuel]

end Loop

theorem digitSum_wnaf {w : Nat} (hw : 2 ≤ w) (k : Nat) : digitSum (wnaf k w) = k :=
  digitSum_wnafLoop hw (two_mul_le_wnaf_fuel k)

/-- Every digit of a legal window fits a signed byte (R132). -/
theorem wnaf_digit_bounds {k w : Nat} {d : Int} (hmin : 2 ≤ w) (hmax : w ≤ 8) (h : d ∈ wnaf k w) :
    (d = 0 ∨ d % 2 = 1) ∧ |d| ≤ 2 ^ (w - 1) - 1 ∧ |d| ≤ 127 := by
  obtain ⟨k', rfl⟩ := mem_wnafLoop h
  have habs := abs_wnafDigit_le hmin k'
  have hpow : (2 ^ (w - 1) : Int) ≤ 2 ^ 7 := pow_le_pow_right₀ (by decide) (by omega)
  exact ⟨wnafDigit_eq_zero_or_odd hmin k', habs, by omega⟩

/-- Settles O45: each property by induction on the loop, whose fuel is enough. -/
theorem recoderProperties : Obligations.RecoderProperties := by
  refine ⟨fun k w hmin hmax => ?_, fun w hmin hmax => wnaf_two_pow_sub_one hmin (by omega)⟩
  have hfuel := two_mul_le_wnaf_fuel k
  have hlen : (wnaf k w).length ≤ bitlen k + 1 := length_wnafLoop_le _ _ _
  exact ⟨digitSum_wnaf hmin k, fun d hd => wnaf_digit_bounds hmin hmax hd,
    fun i j hi hij hj => wnafLoop_nonadjacent hmin hi hij hj, wnafLoop_eq_nil_iff hfuel,
    fun d hd => wnafLoop_getLast_pos hmin hfuel hd, hlen, fun hk => hlen.trans (Nat.succ_le_succ (bitlen_le hk))⟩

/-! ## The command `WNAF` (R133) -/

theorem wnaf_wellFormed (rd ra : RIdx) {w : Byte} (hmin : 2 ≤ w.toNat) (hmax : w.toNat ≤ 8) :
    (Instr.wnaf rd ra w).wellFormed = true := by
  have hw : windowOk w = true := decide_eq_true ⟨hmin, hmax⟩
  simp [Instr.wellFormed, Instr.check, hw]

theorem toInt_tc8 {d : Int} (h : |d| ≤ 127) : (tc8 d).toInt = d := by
  obtain ⟨hlo, hhi⟩ := abs_le.1 h
  rw [tc8, BitVec.toInt_ofInt]
  exact Int.bmod_eq_of_le (by omega) (by omega)

/-- Settles O46: the digits fit DBUF and a byte each. -/
theorem recoderCommandWritesTheDigits : Obligations.RecoderCommandWritesTheDigits := by
  intro s rd ra w hs hmin hmax
  have hfit : 0 + ((wnaf (s.natR ra) w.toNat).map tc8).length ≤ Config.dbufBytes := by
    rw [Nat.zero_add, List.length_map]
    exact length_wnaf_natR_le s ra w.toNat
  refine ⟨_, command_ok (wnaf_wellFormed rd ra hmin hmax) rfl, ?_, fun k hk => ?_, fun k hk => ?_, rfl, fun k hk => ?_⟩
  · exact natR_setNatR_self _ rd ((length_wnaf_natR_le s ra w.toNat).trans_lt (by decide))
  · have hread := Memory.read_writeBytes_inside hs hfit (i := k) (by rwa [List.length_map])
    rw [Nat.zero_add, List.getElem_map] at hread
    rw [setNatR_dbuf, memWrite_dbuf, hread, List.getD_eq_getElem _ _ hk]
    exact toInt_tc8 (wnaf_digit_bounds hmin hmax (List.getElem_mem hk)).2.2
  · exact Memory.read_writeBytes_outside _ (.inr (by rwa [Nat.zero_add, List.length_map]))
  · exact getR_setNatR_of_ne _ hk _

end Sys2Proof.Machine

/-! ## The GLV splitter (42_scalarmul.md R136 to R139) -/

namespace Sys2Proof.Machine

/-- Rounding to the nearest integer is off by half the divisor at most (R137). -/
theorem divround_error (x : Int) {m : Int} (hm : 0 < m) : 2 * |x - m * divround x m| ≤ m := by
  have h := Int.emod_add_mul_ediv (2 * x + m) (2 * m)
  have hlo := Int.emod_nonneg (2 * x + m) (b := 2 * m) (by omega)
  have hhi := Int.emod_lt_of_pos (2 * x + m) (b := 2 * m) (by omega)
  rw [← divround, mul_assoc] at h
  rcases abs_cases (x - m * divround x m) with ⟨he, -⟩ | ⟨he, -⟩ <;> omega

/-- `n` divides both basis vectors' values `a + b * lambda` (R136), so the split keeps the residue (R138 (a)). -/
theorem glvsplit_congr (k : Nat) : (Config.n : Int) ∣ (glvsplit k).1 + (glvsplit k).2 * Config.lambda - k := by
  obtain ⟨u, hu⟩ : (Config.n : Int) ∣ Config.glvA1 + Config.glvB1 * Config.lambda := by decide +kernel
  obtain ⟨v, hv⟩ : (Config.n : Int) ∣ Config.glvA2 + Config.glvB2 * Config.lambda := by decide +kernel
  unfold glvsplit
  dsimp only
  generalize divround _ _ = c1
  generalize divround _ _ = c2
  exact ⟨-c1 * u - c2 * v, by linear_combination -c1 * hu - c2 * hv⟩

/-- The basis has determinant `n`, so the halves are the combination of its vectors with the two rounding errors, here times
`n`, each of them half at most (R138 (b)). -/
theorem glvsplit_rounding (k : Nat) : ∃ e1 e2 : Int, 2 * |e1| ≤ Config.n ∧ 2 * |e2| ≤ Config.n ∧
    Config.n * (glvsplit k).1 = e1 * Config.glvA1 + e2 * Config.glvA2 ∧
    Config.n * (glvsplit k).2 = e1 * Config.glvB1 + e2 * Config.glvB2 := by
  have hdet : Config.glvA1 * Config.glvB2 - Config.glvA2 * Config.glvB1 = Config.n := by decide +kernel
  have hn : (0 : Int) < Config.n := by decide
  refine ⟨_, _, divround_error (Config.glvB2 * k) hn, divround_error (-Config.glvB1 * k) hn, ?_, ?_⟩
  · unfold glvsplit
    linear_combination -(k : Int) * hdet
  · unfold glvsplit
    ring

theorem glvsplit_bounds (k : Nat) : (glvsplit k).1.natAbs < 2 ^ 128 ∧ (glvsplit k).2.natAbs < 2 ^ 128 := by
  obtain ⟨e1, e2, he1, he2, h1, h2⟩ := glvsplit_rounding k
  obtain ⟨hlo1, hhi1⟩ := abs_le.1 (le_refl |e1|)
  obtain ⟨hlo2, hhi2⟩ := abs_le.1 (le_refl |e2|)
  simp only [Config.glvA1, Config.glvB1, Config.glvA2, Config.glvB2, Config.n] at he1 he2 h1 h2
  push_cast at he1 he2 h1 h2
  zify
  rw [abs_lt, abs_lt]
  refine ⟨⟨?_, ?_⟩, ?_, ?_⟩ <;> linarith

theorem glvsplit_wellFormed {rd : RIdx} (ra : RIdx) (h : rd.val ≤ 14) : (Instr.glvsplit rd ra).wellFormed = true := by
  have hp : pairOk rd = true := decide_eq_true h
  simp [Instr.wellFormed, Instr.check, hp]

theorem pairHigh_ne (i : RIdx) : i ≠ pairHigh i := by
  revert i
  decide

theorem natR_setNatR_of_ne (s : State) {i k : RIdx} (h : k ≠ i) (v : Nat) : (s.setNatR i v).natR k = s.natR k :=
  congrArg BitVec.toNat (getR_setNatR_of_ne s h v)

theorem natR_setHalfSigns (s : State) (k1 k2 : Int) (i : RIdx) : (s.setHalfSigns k1 k2).natR i = s.natR i := rfl

/-- Settles O47: the basis gives the congruence and the bounds; the halves go to both registers of the pair. -/
theorem splitterHalvesTheScalar : Obligations.SplitterHalvesTheScalar := by
  refine ⟨fun k _ => ⟨Int.emod_eq_zero_of_dvd (glvsplit_congr k), glvsplit_bounds k⟩,
    fun s rd ra hrd => ⟨fun h => ?_, fun h => ?_⟩⟩
  · obtain ⟨h1, h2⟩ := glvsplit_bounds (s.natR ra)
    have hlt : 2 ^ 128 < 2 ^ 256 := by decide
    refine ⟨_, command_operand_ok (m := Config.n) (glvsplit_wellFormed ra hrd) h rfl, ?_, ?_, rfl, rfl⟩
    · rw [natR_setHalfSigns, natR_setNatR_of_ne _ (pairHigh_ne rd), natR_setNatR_self s rd (h1.trans hlt)]
    · rw [natR_setHalfSigns]
      exact natR_setNatR_self _ (pairHigh rd) (h2.trans hlt)
  · exact command_operand_range (m := Config.n) (glvsplit_wellFormed ra hrd) h

end Sys2Proof.Machine

/-! ## The hidden cache (42_scalarmul.md R146) -/

namespace Sys2Proof.Machine

/-- The state with another hidden cache. -/
def State.withCache (s : State) (cache : List CacheEntry) : State := { s with wnafCache := cache }

/-- Two outcomes of a rule differ in the hidden cache at most. -/
def AgreeButCache (rule rule' : Except ErrCode State) : Prop :=
  (∃ e, rule = .error e ∧ rule' = .error e) ∨ ∃ t cache, rule = .ok t ∧ rule' = .ok (t.withCache cache)

/-- Two outcomes of a command are states that differ in the hidden cache at most (R146). -/
def SameButCache (o o' : Host.Outcome State Fault Refusal) : Prop :=
  ∃ t cache, o = .next t ∧ o' = .next (t.withCache cache)

theorem agreeButCache_ok {t t' : State} (cache : List CacheEntry) (h : t' = t.withCache cache) :
    AgreeButCache (.ok t) (.ok t') := .inr ⟨t, cache, rfl, congrArg _ h⟩

/-- A step before the rest of a rule, the same in both states, leaves it to the rest. -/
theorem agreeButCache_bind {α : Type} {m m' : Except ErrCode α} {f g : α → Except ErrCode State} (hm : m' = m)
    (h : ∀ x, AgreeButCache (f x) (g x)) : AgreeButCache (m >>= f) (m' >>= g) := by
  subst hm
  cases m' with
  | error e => exact .inl ⟨e, rfl, rfl⟩
  | ok x => exact h x

/-- A command ends the same in states that differ in the hidden cache, if its rule does. -/
theorem command_sameButCache {i : Instr} {s : State} {cache : List CacheEntry} {rule rule' : Except ErrCode State}
    (h : AgreeButCache rule rule') : SameButCache (command i s rule) (command i (s.withCache cache) rule') := by
  cases hw : i.wellFormed with
  | false => exact ⟨_, cache, command_illegal hw, command_illegal hw⟩
  | true =>
    rcases h with ⟨e, hr, hr'⟩ | ⟨t, cache', hr, hr'⟩
    · exact ⟨_, cache, command_error hw hr, command_error hw hr'⟩
    · exact ⟨t, cache', command_ok hw hr, command_ok hw hr'⟩

theorem agreeButCache_touchTable {t t' : State} (cache : List CacheEntry) (w : Nat) (q : Pt) (h : t' = t.withCache cache) :
    AgreeButCache (.ok (t.touchTable w q)) (.ok (t'.touchTable w q)) := by
  obtain ⟨c, hc⟩ := touchTable_eq t w q
  obtain ⟨c', hc'⟩ := touchTable_eq t' w q
  rw [hc, hc', h]
  exact agreeButCache_ok c' rfl

theorem agreeButCache_touchTables {t t' : State} (cache : List CacheEntry) (terms : List (Nat × Pt))
    (h : t' = t.withCache cache) : AgreeButCache (.ok (t.touchTables terms)) (.ok (t'.touchTables terms)) := by
  obtain ⟨c, hc⟩ := touchTables_eq t terms
  obtain ⟨c', hc'⟩ := touchTables_eq t' terms
  rw [hc, hc', h]
  exact agreeButCache_ok c' rfl

/-- The writes of `GLVSPLIT`, of any two halves: with the split itself in place the kernel would compute it. -/
theorem setHalves_withCache (s : State) (cache : List CacheEntry) (rd : RIdx) (k1 k2 : Int) :
    (((s.withCache cache).setNatR rd k1.natAbs).setNatR (pairHigh rd) k2.natAbs).setHalfSigns k1 k2 =
      (((s.setNatR rd k1.natAbs).setNatR (pairHigh rd) k2.natAbs).setHalfSigns k1 k2).withCache cache := rfl

/-- Settles O48: no test and no operand of a rule reads the cache, and each write but the tables' keeps it. The cases are
grouped by how many tests a rule makes before its writes. -/
theorem hiddenCacheIsTransparent : Obligations.HiddenCacheIsTransparent := by
  intro i s cache
  change SameButCache (exec i s) (exec i (s.withCache cache))
  cases i
  all_goals
    unfold exec
    refine command_sameButCache ?_
  case nop | mov | ldi | ldc | pmov | pldg | pinf | jmov | redp | redn | wnaf | truncn | hinit =>
    exact agreeButCache_ok cache rfl
  case ldbe | pgetx | pgety | powp | pdbl | pneg | pvalid | pfromx | jfroma | jtoa | jdbl | jneg | pendo | drbgk |
      hmacinit =>
    exact agreeButCache_bind rfl fun _ => agreeButCache_ok cache rfl
  case glvsplit =>
    exact agreeButCache_bind rfl fun _ => agreeButCache_ok cache (setHalves_withCache s cache _ _ _)
  case sqrtp rd ra =>
    refine agreeButCache_bind rfl fun x => ?_
    cases sqrtp x with
    | none => exact agreeButCache_ok cache rfl
    | some t => exact agreeButCache_ok cache rfl
  case stbe | pset | addp | subp | mulp | invp | muln | invn | padd | peq | pdec | jadd | sign | verify | hdigest |
      hmacfinal =>
    exact agreeButCache_bind rfl fun _ => agreeButCache_bind rfl fun _ => agreeButCache_ok cache rfl
  case penc | hupdate | hdigestH256 | hdigestH160 =>
    exact agreeButCache_bind rfl fun _ => agreeButCache_bind rfl fun _ => agreeButCache_bind rfl fun _ =>
      agreeButCache_ok cache rfl
  case pmul =>
    exact agreeButCache_bind rfl fun _ => agreeButCache_touchTable cache _ _ rfl
  case pmuladd =>
    exact agreeButCache_bind rfl fun _ => agreeButCache_bind rfl fun _ => agreeButCache_touchTables cache _ rfl

end Sys2Proof.Machine

/-! ## The order of the curve (41_point.md R91) -/

namespace Sys2Proof.Machine

section Field
variable [Fact (Nat.Prime Config.p)]

/-- A point by its x coordinate and the parity of y: each x coordinate has two points at most. -/
def pointTag : curve.Point → Option (Fp × Bool)
  | .zero => none
  | .some x y _ => some (x, y.val % 2 == 1)

theorem pointTag_injective : Function.Injective pointTag := by
  intro P Q h
  match P, Q with
  | .zero, .zero => rfl
  | .some x y hP, .some x' y' hQ =>
    obtain ⟨rfl, hodd⟩ : x = x' ∧ (y.val % 2 == 1) = (y'.val % 2 == 1) := by simpa [pointTag] using h
    have hsq : y.val * y.val % Config.p = y'.val * y'.val % Config.p := by
      rw [← ZMod.natCast_eq_natCast_iff']
      push_cast [ZMod.natCast_zmod_val]
      rw [← pow_two, ← pow_two, (curve_nonsingular_iff x y).1 hP, (curve_nonsingular_iff x y').1 hQ]
    have hy : y = y' := by
      have hp : Config.p % 2 = 1 := by decide
      refine ZMod.val_injective _ ((eq_or_add_eq_p_of_sq y.val_lt y'.val_lt hsq).resolve_right fun hsum => ?_)
      have hiff := Bool.eq_iff_iff.1 hodd
      simp only [beq_iff_eq] at hiff
      omega
    subst hy
    rfl

theorem finite_point : Finite curve.Point := Finite.of_injective _ pointTag_injective

theorem card_point_le : Nat.card curve.Point ≤ 2 * Config.p + 1 := by
  have h := Nat.card_le_card_of_injective _ pointTag_injective
  have hcard : Nat.card (Option (Fp × Bool)) = 2 * Config.p + 1 := by
    rw [Finite.card_option, Nat.card_prod, Nat.card_zmod, Nat.card_eq_two_iff.2, mul_comm]
    exact ⟨false, true, by decide, by ext b; cases b <;> simp⟩
  rwa [hcard] at h

/-- `-7` is no cube, for it is not 1 at the power `(p - 1) / 3`. -/
theorem cube_add_seven_ne_zero (x : Fp) : x ^ 3 + 7 ≠ 0 := by
  intro h
  have hx : x ≠ 0 := by
    rintro rfl
    rw [zero_pow three_ne_zero, zero_add] at h
    exact natCast_Fp_ne_zero (k := 7) (by decide) (by decide) h
  have hcube : x ^ 3 = ((Config.p - 7 : Nat) : Fp) := by
    rw [Nat.cast_sub (by decide), ZMod.natCast_self, zero_sub, eq_neg_of_add_eq_zero_left h]
    rfl
  have hexp : 3 * ((Config.p - 1) / 3) = Config.p - 1 := by decide +kernel
  have hone : ((Config.p - 7 : Nat) : Fp) ^ ((Config.p - 1) / 3) = 1 := by
    rw [← hcube, ← pow_mul, hexp, ZMod.pow_card_sub_one_eq_one hx]
  have hne : powMod Config.p (Config.p - 7) ((Config.p - 1) / 3) % Config.p ≠ 1 := by decide +kernel
  exact hne ((powMod_mod_eq_one_iff (by decide) (by decide +kernel)).2 hone)

/-- No point has order 2: it would have `y = 0`. -/
theorem addOrderOf_point_ne_two (P : curve.Point) : addOrderOf P ≠ 2 := by
  intro h
  have hP : P + P = 0 := by rw [← two_nsmul, ← h, addOrderOf_nsmul_eq_zero]
  cases P with
  | zero => exact absurd (addOrderOf_zero.symm.trans h) (by decide)
  | some x y hn =>
    have hneg := eq_neg_of_add_eq_zero_left hP
    rw [WeierstrassCurve.Affine.Point.neg_some, WeierstrassCurve.Affine.Point.some.injEq, curve_negY] at hneg
    have hy : y = 0 := by
      have h2 : 2 * y = 0 := by rw [two_mul, ← eq_neg_iff_add_eq_zero]; exact hneg.2
      exact (mul_eq_zero.1 h2).resolve_left two_ne_zero_Fp
    have hcurve := (curve_nonsingular_iff x y).1 hn
    rw [hy, zero_pow two_ne_zero] at hcurve
    exact cube_add_seven_ne_zero x hcurve.symm

theorem Pt.ofPoint_eq_inf_iff {P : curve.Point} : Pt.ofPoint P = .inf ↔ P = 0 := by
  cases P with
  | zero => exact ⟨fun _ => rfl, fun _ => rfl⟩
  | some x y hn => exact ⟨nofun, nofun⟩

/-- The generator as a point of the curve. -/
theorem exists_generator : ∃ G : curve.Point, Pt.ofPoint G = Pt.gen ∧ G ≠ 0 := by
  obtain ⟨G, hG⟩ := Pt.gen.wf_iff_ofPoint.1 (by decide +kernel)
  refine ⟨G, hG, ?_⟩
  rw [Ne, ← Pt.ofPoint_eq_inf_iff, hG]
  exact nofun

/-- The curve has `n` points: the generator's order divides their number, which is at most `2p + 1`, below `3n`, and odd. -/
theorem card_point : Nat.card curve.Point = Config.n := by
  have := finite_point
  have : Fact (Nat.Prime Config.n) := ⟨prime_n⟩
  obtain ⟨G, hG, hne⟩ := exists_generator
  have hn : Config.n • G = 0 := by rw [← Pt.ofPoint_eq_inf_iff, ← smul_ofPoint, hG, smul_n_gen]
  obtain ⟨c, hc⟩ := addOrderOf_eq_prime hn hne ▸ addOrderOf_dvd_natCard G
  have hpos : 0 < Nat.card curve.Point := Nat.card_pos
  have hbound : 2 * Config.p + 1 < Config.n * 3 := by decide
  have hc3 : c < 3 := Nat.lt_of_mul_lt_mul_left (hc ▸ card_point_le.trans_lt hbound)
  interval_cases c
  · omega
  · rw [hc, mul_one]
  · obtain ⟨P, hP⟩ := exists_prime_addOrderOf_dvd_card' (G := curve.Point) 2 (by rw [hc]; exact dvd_mul_left _ _)
    exact absurd hP (addOrderOf_point_ne_two P)

theorem n_nsmul (P : curve.Point) : Config.n • P = 0 := by
  rw [← card_point, card_nsmul_eq_zero']

/-- `phi` is the multiple by `lambda` (42_scalarmul.md R134) on every point, each a multiple of the generator. -/
theorem Pt.phi_ofPoint (P : curve.Point) : (Pt.ofPoint P).phi = Pt.ofPoint (Config.lambda • P) := by
  have : Fact (Nat.Prime Config.n) := ⟨prime_n⟩
  obtain ⟨G, hG, hne⟩ := exists_generator
  obtain ⟨m, rfl⟩ := mem_multiples_of_prime_card card_point (g := G) (g' := P) hne
  obtain ⟨-, -, hphi⟩ := scalarMultipleIsRepeatedAddition
  simpa only [← hG, smul_ofPoint] using hphi m

/-! ## Windowed multiplication (42_scalarmul.md R141, R142) -/

theorem Jac.Represents.add_points {j1 j2 : Jac} {P Q : curve.Point} (h1 : j1.Represents (.ofPoint P))
    (h2 : j2.Represents (.ofPoint Q)) : (j1.add j2).Represents (.ofPoint (P + Q)) := by
  rw [Pt.ofPoint_add]
  exact h1.add h2 ((Pt.wf_iff_ofPoint _).2 ⟨P, rfl⟩) ((Pt.wf_iff_ofPoint _).2 ⟨Q, rfl⟩)

theorem Jac.Represents.dbl_point {j : Jac} {P : curve.Point} (h : j.Represents (.ofPoint P)) :
    j.dbl.Represents (.ofPoint (P + P)) := by
  rw [Pt.ofPoint_add]
  exact h.dbl

theorem Jac.Represents.neg_point {j : Jac} {P : curve.Point} (h : j.Represents (.ofPoint P)) :
    j.neg.Represents (.ofPoint (-P)) := by
  rw [Pt.ofPoint_neg]
  exact h.neg

/-- Entry `i` of further multiples is `i + 1` steps `D` from the point they start with. -/
theorem oddMultiples_represents {d t : Jac} {D T : curve.Point} {len i : Nat} (hd : d.Represents (.ofPoint D))
    (ht : t.Represents (.ofPoint T)) (hi : i < len) :
    ((oddMultiples d len t).getD i Jac.infinity).Represents (.ofPoint (T + (i + 1) • D)) := by
  induction len generalizing t T i with
  | zero => exact absurd hi (Nat.not_lt_zero i)
  | succ len ih =>
    have ht' := ht.add_points hd
    cases i with
    | zero => rwa [zero_add, one_nsmul]
    | succ i =>
      have h := ih ht' (Nat.lt_of_succ_lt_succ hi)
      rwa [add_assoc, ← succ_nsmul'] at h

/-- The table of a point serves a digit: the entry of its magnitude represents that multiple of the point. -/
def ServesDigit (table : List Jac) (P : curve.Point) (d : Int) : Prop :=
  d ≠ 0 → (tableEntry table d.natAbs).Represents (.ofPoint (d.natAbs • P))

/-- The table of a window serves every digit of the window (R141). -/
theorem oddTable_serves {x y w : Nat} {P : curve.Point} {d : Int} (hP : Pt.ofPoint P = .fin x y) (hw : 2 ≤ w)
    (hd : (d = 0 ∨ d % 2 = 1) ∧ |d| ≤ 2 ^ (w - 1) - 1) : ServesDigit (oddTable x y w) P d := by
  intro hne
  obtain ⟨hodd, hle⟩ := hd
  obtain ⟨v, rfl⟩ : ∃ v, w = v + 2 := ⟨w - 2, by omega⟩
  have h1 : (Jac.ofAffine (.fin x y)).Represents (.ofPoint P) := by
    rw [hP]
    exact Jac.represents_ofAffine ((Pt.wf_iff_ofPoint _).2 ⟨P, hP⟩)
  obtain ⟨m, hm⟩ : ∃ m, d.natAbs = 2 * m + 1 := ⟨d.natAbs / 2, by omega⟩
  have hdiv : (2 * m + 1) / 2 = m := by omega
  rw [hm, tableEntry, hdiv, oddTable]
  cases m with
  | zero => rwa [mul_zero, zero_add, one_nsmul]
  | succ i =>
    have hpow : (2 ^ (v + 2 - 1) : Int) = 2 * (2 ^ v : Nat) := by
      push_cast
      exact pow_succ' 2 v
    rw [Int.abs_eq_natAbs, hm, hpow] at hle
    have h := oddMultiples_represents h1.dbl_point h1 (i := i) (len := 2 ^ v - 1) (by omega)
    have hsum : P + (i + 1) • (P + P) = (2 * (i + 1) + 1) • P := by
      rw [← two_nsmul, ← mul_nsmul, succ_nsmul', mul_comm]
    rwa [hsum] at h

theorem servesDigit_zero (table : List Jac) (P : curve.Point) : ServesDigit table P 0 := fun h => absurd rfl h

/-- A digit adds its multiple to what the accumulator represents (R142). -/
theorem addDigit_represents {table : List Jac} {P A : curve.Point} {d : Int} {acc : Jac} (hd : ServesDigit table P d)
    (hacc : acc.Represents (.ofPoint A)) : (addDigit table d acc).Represents (.ofPoint (A + d • P)) := by
  unfold addDigit
  split_ifs with hpos hneg
  · have h := hacc.add_points (hd hpos.ne')
    rwa [← natCast_zsmul, Int.natAbs_of_nonneg hpos.le] at h
  · have h := hacc.add_points (hd hneg.ne).neg_point
    rwa [← natCast_zsmul, ← neg_zsmul, Int.ofNat_natAbs_of_nonpos hneg.le, neg_neg] at h
  · rwa [show d = 0 by omega, zero_zsmul, add_zero]

/-- Digits accumulated from the most significant one give the multiple by the number they stand for. -/
theorem accumulate_represents {table : List Jac} {P : curve.Point} {ds : List Int}
    (h : ∀ d ∈ ds, ServesDigit table P d) :
    (accumulate table ds).Represents (.ofPoint (digitSum ds • P)) := by
  induction ds with
  | nil =>
    rw [digitSum_nil, zero_zsmul]
    exact Jac.represents_infinity
  | cons d ds ih =>
    obtain ⟨hd, hds⟩ := List.forall_mem_cons.1 h
    have hstep := addDigit_represents hd (ih hds).dbl_point
    rwa [← two_zsmul, ← mul_zsmul, ← add_zsmul, add_comm, ← digitSum_cons] at hstep

theorem wnaf_served {x y k w : Nat} {P : curve.Point} (hP : Pt.ofPoint P = .fin x y) (hmin : 2 ≤ w) (hmax : w ≤ 8) :
    ∀ d ∈ wnaf k w, ServesDigit (oddTable x y w) P d := by
  intro d hd
  obtain ⟨hodd, hle, -⟩ := wnaf_digit_bounds hmin hmax hd
  exact oddTable_serves hP hmin ⟨hodd, hle⟩

theorem smulWnaf_ofPoint (k : Nat) (P : curve.Point) {w : Nat} (hmin : 2 ≤ w) (hmax : w ≤ 8) :
    smulWnaf k (.ofPoint P) w = .ofPoint (k • P) := by
  cases hP : Pt.ofPoint P with
  | inf => rw [Pt.ofPoint_eq_inf_iff.1 hP, nsmul_zero]; rfl
  | fin x y =>
    have h := accumulate_represents (wnaf_served (k := k) hP hmin hmax)
    rw [digitSum_wnaf hmin, natCast_zsmul] at h
    exact h.2

end Field

/-! ## The interleaved multiply-add (42_scalarmul.md R144) -/

theorem digitSum_drop (ds : List Int) (i : Nat) :
    digitSum (ds.drop i) = ds.getD i 0 + 2 * digitSum (ds.drop (i + 1)) := by
  by_cases hi : i < ds.length
  · rw [List.drop_eq_getElem_cons hi, digitSum_cons, List.getD_eq_getElem _ _ hi]
  · rw [List.drop_of_length_le (by omega), List.drop_of_length_le (by omega), List.getD_eq_default _ _ (by omega)]
    rfl

theorem le_foldl_max_length (terms : List (List Int × List Jac)) (m : Nat) :
    m ≤ terms.foldl (fun m t => max m t.1.length) m ∧
      ∀ t ∈ terms, t.1.length ≤ terms.foldl (fun m t => max m t.1.length) m := by
  induction terms generalizing m with
  | nil => exact ⟨le_refl m, nofun⟩
  | cons t terms ih =>
    obtain ⟨hm, hterms⟩ := ih (max m t.1.length)
    exact ⟨(le_max_left _ _).trans hm, List.forall_mem_cons.2 ⟨(le_max_right _ _).trans hm, hterms⟩⟩

theorem glvTerms_fin (k x y : Nat) : glvTerms k (.fin x y) =
    [glvTerm (glvsplit (k % Config.n)).1 (.fin x y), glvTerm (glvsplit (k % Config.n)).2 (Pt.fin x y).phi] := rfl

section Interleaving
variable [Fact (Nat.Prime Config.p)]

/-- A term of the multiply-add in the model's form. -/
def curveTerm (t : Nat × curve.Point) : Nat × Pt := (t.1, .ofPoint t.2)

/-- The digits of a term. -/
def termDigits (t : Nat × curve.Point) : List Int := (termTable (curveTerm t)).1

theorem termTable_curveTerm (t : Nat × curve.Point) :
    (∀ d ∈ termDigits t, ServesDigit (termTable (curveTerm t)).2 t.2 d) ∧
      digitSum (termDigits t) • t.2 = t.1 • t.2 := by
  obtain ⟨k, P⟩ := t
  unfold termDigits termTable curveTerm
  dsimp only
  cases hP : Pt.ofPoint P with
  | inf =>
    rw [Pt.ofPoint_eq_inf_iff.1 hP, nsmul_zero, zsmul_zero]
    exact ⟨nofun, rfl⟩
  | fin x y =>
    refine ⟨wnaf_served hP (by decide) (by decide), ?_⟩
    rw [digitSum_wnaf (by decide), natCast_zsmul]

/-- What the accumulator stands for before position `i - 1`: each point times its digits from position `i` on. -/
def tailSum (ts : List (Nat × curve.Point)) (i : Nat) : curve.Point :=
  (ts.map fun t => digitSum ((termDigits t).drop i) • t.2).sum

/-- The positions of a tail are a digit of each term, and twice the next tail. -/
theorem tailSum_eq (ts : List (Nat × curve.Point)) (i : Nat) :
    tailSum ts i = tailSum ts (i + 1) + tailSum ts (i + 1) + (ts.map fun t => (termDigits t).getD i 0 • t.2).sum := by
  induction ts with
  | nil => simp [tailSum]
  | cons t ts ih =>
    simp only [tailSum, List.map_cons, List.sum_cons] at ih ⊢
    rw [ih, digitSum_drop, add_zsmul, two_mul, add_zsmul]
    abel

theorem foldl_addDigit_represents (ts : List (Nat × curve.Point)) (i : Nat) {acc : Jac} {A : curve.Point}
    (h : acc.Represents (.ofPoint A)) :
    (((ts.map curveTerm).map termTable).foldl (fun acc t => addDigit t.2 (t.1.getD i 0) acc) acc).Represents
      (.ofPoint (A + (ts.map fun t => (termDigits t).getD i 0 • t.2).sum)) := by
  induction ts generalizing acc A with
  | nil => rwa [List.map_nil, List.map_nil, List.map_nil, List.sum_nil, add_zero]
  | cons t ts ih =>
    have hd : ServesDigit (termTable (curveTerm t)).2 t.2 ((termDigits t).getD i 0) := by
      by_cases hi : i < (termDigits t).length
      · rw [List.getD_eq_getElem _ _ hi]
        exact (termTable_curveTerm t).1 _ (List.getElem_mem hi)
      · rw [List.getD_eq_default _ _ (by omega)]
        exact servesDigit_zero _ _
    rw [List.map_cons, List.map_cons, List.map_cons, List.sum_cons, ← add_assoc]
    exact ih (addDigit_represents hd h)

/-- The loop's invariant: before position `i - 1` the accumulator represents the tail from `i` on. -/
theorem interleaveLoop_represents (ts : List (Nat × curve.Point)) (i : Nat) {acc : Jac}
    (h : acc.Represents (.ofPoint (tailSum ts i))) :
    (interleaveLoop ((ts.map curveTerm).map termTable) i acc).Represents (.ofPoint (tailSum ts 0)) := by
  induction i generalizing acc with
  | zero => exact h
  | succ i ih =>
    refine ih ?_
    rw [tailSum_eq ts i]
    exact foldl_addDigit_represents ts i h.dbl_point

theorem tailSum_of_length_le {ts : List (Nat × curve.Point)} {i : Nat} (h : ∀ t ∈ ts, (termDigits t).length ≤ i) :
    tailSum ts i = 0 := by
  refine List.sum_eq_zero fun P hP => ?_
  obtain ⟨t, ht, rfl⟩ := List.mem_map.1 hP
  rw [List.drop_of_length_le (h t ht), digitSum_nil, zero_zsmul]

theorem tailSum_zero (ts : List (Nat × curve.Point)) : tailSum ts 0 = (ts.map fun t => t.1 • t.2).sum := by
  refine congrArg List.sum (List.map_congr_left fun t _ => ?_)
  rw [List.drop_zero]
  exact (termTable_curveTerm t).2

/-- A half scalar and its point, negated together, keep the multiple. -/
theorem glvTerm_ofPoint (h : Int) (P : curve.Point) :
    ∃ t, glvTerm h (.ofPoint P) = curveTerm t ∧ t.1 • t.2 = h • P := by
  unfold glvTerm
  split_ifs with hneg
  · refine ⟨(h.natAbs, -P), by rw [← Pt.ofPoint_neg]; rfl, ?_⟩
    rw [← natCast_zsmul, Int.ofNat_natAbs_of_nonpos hneg.le, neg_zsmul, zsmul_neg, neg_neg]
  · refine ⟨(h.natAbs, P), rfl, ?_⟩
    rw [← natCast_zsmul, Int.natAbs_of_nonneg (not_lt.1 hneg)]

/-- The halves of a scalar recompose on every point, for `n` is the order of the curve (R138 (a)). -/
theorem glvsplit_zsmul (k : Nat) (P : curve.Point) :
    (glvsplit (k % Config.n)).1 • P + (glvsplit (k % Config.n)).2 • Config.lambda • P = k • P := by
  obtain ⟨c, hc⟩ := glvsplit_congr (k % Config.n)
  have hk : ((k % Config.n : Nat) : Int) + Config.n * (k / Config.n : Nat) = k := by
    exact_mod_cast Nat.mod_add_div k Config.n
  have hsum : (glvsplit (k % Config.n)).1 + (glvsplit (k % Config.n)).2 * Config.lambda =
      k + Config.n * (c - (k / Config.n : Nat)) := by linear_combination hc + hk
  rw [← natCast_zsmul, ← mul_zsmul, ← add_zsmul, hsum, add_zsmul, mul_zsmul', natCast_zsmul, natCast_zsmul, n_nsmul,
    zsmul_zero, add_zero]

/-- The terms of an operand sum up to its multiple. -/
theorem glvTerms_ofPoint (k : Nat) (P : curve.Point) :
    ∃ ts : List (Nat × curve.Point), glvTerms k (.ofPoint P) = ts.map curveTerm ∧
      (ts.map fun t => t.1 • t.2).sum = k • P := by
  cases hP : Pt.ofPoint P with
  | inf =>
    refine ⟨[], rfl, ?_⟩
    rw [Pt.ofPoint_eq_inf_iff.1 hP, nsmul_zero]
    rfl
  | fin x y =>
    obtain ⟨t1, h1, hs1⟩ := glvTerm_ofPoint (glvsplit (k % Config.n)).1 P
    obtain ⟨t2, h2, hs2⟩ := glvTerm_ofPoint (glvsplit (k % Config.n)).2 (Config.lambda • P)
    rw [← Pt.phi_ofPoint] at h2
    rw [hP] at h1 h2
    refine ⟨[t1, t2], ?_, ?_⟩
    · rw [glvTerms_fin, h1, h2, List.map_cons, List.map_cons, List.map_nil]
    · rw [List.map_cons, List.map_cons, List.map_nil, List.sum_cons, List.sum_cons, List.sum_nil, add_zero, hs1, hs2,
        glvsplit_zsmul]

theorem muladdRef_ofPoint (k1 k2 : Nat) (P1 P2 : curve.Point) :
    muladdRef k1 (.ofPoint P1) k2 (.ofPoint P2) = .ofPoint (k1 • P1 + k2 • P2) := by
  obtain ⟨ts1, h1, hs1⟩ := glvTerms_ofPoint k1 P1
  obtain ⟨ts2, h2, hs2⟩ := glvTerms_ofPoint k2 P2
  have hsum : tailSum (ts1 ++ ts2) 0 = k1 • P1 + k2 • P2 := by
    rw [tailSum_zero, List.map_append, List.sum_append, hs1, hs2]
  rw [muladdRef, h1, h2, ← List.map_append, ← hsum]
  refine (interleaveLoop_represents (ts1 ++ ts2) _ ?_).2
  rw [tailSum_of_length_le fun t ht =>
    (le_foldl_max_length _ 0).2 _ (List.mem_map_of_mem (List.mem_map_of_mem ht))]
  exact Jac.represents_infinity

end Interleaving

/-- Settles O44: tables, digits and accumulators represent multiples in the group of the curve, which has order `n`. -/
theorem windowedMultiplicationIsTheMultiple : Obligations.WindowedMultiplicationIsTheMultiple := by
  have : Fact (Nat.Prime Config.p) := ⟨prime_p⟩
  refine ⟨fun k w q hq hmin hmax => ?_, fun k1 k2 q1 q2 h1 h2 => ?_⟩
  · obtain ⟨P, rfl⟩ := q.wf_iff_ofPoint.1 hq
    rw [smulWnaf_ofPoint k P hmin hmax, smul_ofPoint]
  · obtain ⟨P, rfl⟩ := q1.wf_iff_ofPoint.1 h1
    obtain ⟨Q, rfl⟩ := q2.wf_iff_ofPoint.1 h2
    rw [muladdRef_ofPoint, smul_ofPoint, smul_ofPoint, Pt.ofPoint_add]

end Sys2Proof.Machine

/-! ## Truncation to the order (43_ecdsa.md R170, R171) -/

namespace Sys2Proof.Machine

/-- `n` has 256 bits: a value of at most 256 bits needs one subtraction. -/
theorem two_pow_lt_two_mul_n : 2 ^ 256 < 2 * Config.n := by decide

/-- A value without its lowest `d` bits, the ones the byte length says are too many, then one subtraction. -/
theorem truncateToN_eq {v d : Nat} (hd : bytelen v * 8 - 256 = d) (hv : v / 2 ^ d < 2 ^ 256) :
    truncateToN v true = v / 2 ^ d ∧ truncateToN v false = v / 2 ^ d % Config.n := by
  simp only [truncateToN, hd, Nat.shiftRight_eq_div_pow, reduceCtorEq, false_and, if_false, true_and]
  have hn := two_pow_lt_two_mul_n
  split_ifs with h
  · rw [Nat.mod_eq_sub_mod h, Nat.mod_eq_of_lt (by omega)]
  · rw [Nat.mod_eq_of_lt (by omega)]

/-- A value of at most 256 bits is not shifted. -/
theorem truncateToN_of_lt {v : Nat} (hv : v < 2 ^ 256) :
    truncateToN v true = v ∧ truncateToN v false = v % Config.n := by
  have hd : bytelen v * 8 - 256 = 0 := by
    have := bitlen_le hv
    unfold bytelen
    omega
  simpa using truncateToN_eq hd (by simpa using hv)

/-- A value of `33 + j` bytes loses its `j + 1` lowest ones. -/
theorem truncateToN_of_bitlen {v j : Nat} (hlo : 256 + 8 * j < bitlen v) (hhi : bitlen v ≤ 264 + 8 * j) :
    truncateToN v true = v / 2 ^ (8 * (j + 1)) ∧ truncateToN v false = v / 2 ^ (8 * (j + 1)) % Config.n := by
  refine truncateToN_eq (by unfold bytelen; omega) (Nat.div_lt_of_lt_mul ?_)
  calc v < 2 ^ bitlen v := lt_two_pow_bitlen v
    _ ≤ 2 ^ (8 * (j + 1) + 256) := Nat.pow_le_pow_right (by decide) (by omega)
    _ = 2 ^ (8 * (j + 1)) * 2 ^ 256 := Nat.pow_add ..

/-- A message register is truncated to its residue. -/
theorem truncateToN_natR (s : State) (i : RIdx) : truncateToN (s.natR i) false = s.natR i % Config.n :=
  (truncateToN_of_lt (natR_lt s i)).2

theorem truncn_wellFormed (rd : RIdx) {ra : RIdx} (truncOnly : Bool) (h : ra.val ≤ 14) :
    (Instr.truncn rd ra truncOnly).wellFormed = true := by
  have hp : pairOk ra = true := decide_eq_true h
  simp [Instr.wellFormed, Instr.check, hp]

/-- Settles O49: the shift is known from the bit length, and what it leaves is below `2n`. -/
theorem truncationToTheOrder : Obligations.TruncationToTheOrder := by
  refine ⟨fun v hv => truncateToN_of_lt hv, fun v j hlo hhi => truncateToN_of_bitlen hlo hhi, fun s rd ra truncOnly h => ?_⟩
  exact command_ok (truncn_wellFormed rd truncOnly h) (by rw [pair_eq])

/-! ## The nonce generator (43_ecdsa.md R172, R174) -/

theorem foldl_be_lt (bs : List Byte) (acc : Nat) :
    bs.foldl (fun acc b => acc * 256 + b.toNat) acc < (acc + 1) * 256 ^ bs.length := by
  induction bs generalizing acc with
  | nil => simp
  | cons b bs ih =>
    have hb : b.toNat < 256 := b.isLt
    calc (b :: bs).foldl (fun acc b => acc * 256 + b.toNat) acc
        < (acc * 256 + b.toNat + 1) * 256 ^ bs.length := ih _
      _ ≤ ((acc + 1) * 256) * 256 ^ bs.length := Nat.mul_le_mul_right _ (by omega)
      _ = (acc + 1) * 256 ^ (b :: bs).length := by rw [List.length_cons, Nat.pow_succ']; ring

/-- The value of a byte string is below the power of its length (00_scope.md R12). -/
theorem be_lt (bs : List Byte) : be bs < 256 ^ bs.length := by
  simpa [be] using foldl_be_lt bs 0

/-- A candidate nonce has 256 bits: it is the value of an SHA-256 digest. -/
theorem drbgCandidate_lt (g : Drbg) (i : Nat) : drbgCandidate g i < 2 ^ 256 := by
  induction i generalizing g with
  | zero =>
    have hlen : (hm g.key g.v).length = 32 := length_hash _ _
    have h := be_lt (hm g.key g.v)
    rwa [hlen] at h
  | succ i ih => exact ih _

theorem keyOperand_of_range {s : State} {i : RIdx} (h1 : 1 ≤ s.natR i) (hn : s.natR i < Config.n) :
    keyOperand s i = .ok (s.natR i) := if_pos ⟨h1, hn⟩

theorem keyOperand_of_out {s : State} {i : RIdx} (h : s.natR i = 0 ∨ Config.n ≤ s.natR i) :
    keyOperand s i = .error .range := if_neg (by omega)

/-- Settles O50: the key test, then the candidate for the residue of the message. -/
theorem nonceCandidateCommand : Obligations.NonceCandidateCommand := by
  intro s rd rmsg rkey iter
  refine ⟨fun h1 hn => ?_, fun h => ?_⟩
  · refine ⟨_, command_ok rfl (by rw [keyOperand_of_range h1 hn, ok_bind]), ?_, rfl, fun k hk => getR_setNatR_of_ne s hk _⟩
    rw [natR_setNatR_self s rd (drbgCandidate_lt _ _), truncateToN_natR]
  · exact command_error rfl (by rw [keyOperand_of_out h, error_bind])

/-! ## One candidate nonce (43_ecdsa.md R176) -/

/-- The `s` that a nonce gives with its `r`, before step 4. -/
def rawS (key z k r : Nat) : Nat := mulN (invN k) ((r * key + z) % Config.n)

/-- Step 4, the low-S rule. -/
def lowForm (lowS : Bool) (sv : Nat) : Nat := if lowS = true ∧ Config.halfN < sv then Config.n - sv else sv

theorem tryNonce_of_out {k : Nat} (key z : Nat) (lowS : Bool) (h : k ≤ 1 ∨ Config.n - 1 ≤ k) :
    tryNonce key z lowS k = .error .kRange := if_pos h

/-- The checks after the range of the nonce, for a nonce whose point is finite. -/
theorem tryNonce_of_fin {k x y : Nat} (key z : Nat) (lowS : Bool) (h2 : 2 ≤ k) (hk : k < Config.n - 1)
    (hR : smul k Pt.gen = .fin x y) :
    tryNonce key z lowS k =
      if x % Config.n = 0 then .error .kZeroR
      else if rawS key z k (x % Config.n) = 0 then .error .kZeroS
      else .ok (x % Config.n, lowForm lowS (rawS key z k (x % Config.n))) := by
  have hin : ¬(k ≤ 1 ∨ k ≥ Config.n - 1) := by omega
  rw [tryNonce, if_neg hin, hR]
  rfl

/-- `sig` is what the nonce `k`, whose point has the coordinates `x` and `y`, gives for the key and the message `z`. -/
structure SignsWith (key z : Nat) (lowS : Bool) (sig : Nat × Nat) (k x y : Nat) : Prop where
  two_le : 2 ≤ k
  lt : k < Config.n - 1
  point : smul k Pt.gen = .fin x y
  r_ne : x % Config.n ≠ 0
  s_ne : rawS key z k (x % Config.n) ≠ 0
  eq : sig = (x % Config.n, lowForm lowS (rawS key z k (x % Config.n)))

/-- A candidate that signs has passed every check. -/
theorem signsWith_of_tryNonce {key z k : Nat} {lowS : Bool} {sig : Nat × Nat} (h : tryNonce key z lowS k = .ok sig) :
    ∃ x y, SignsWith key z lowS sig k x y := by
  by_cases hout : k ≤ 1 ∨ Config.n - 1 ≤ k
  · rw [tryNonce_of_out key z lowS hout] at h
    cases h
  · obtain ⟨h2, hk⟩ : 2 ≤ k ∧ k < Config.n - 1 := by omega
    cases hR : smul k Pt.gen with
    | inf =>
      rw [tryNonce, if_neg hout, hR] at h
      cases h
    | fin x y =>
      rw [tryNonce_of_fin key z lowS h2 hk hR] at h
      split_ifs at h with hr hs
      exact ⟨x, y, h2, hk, hR, hr, hs, (Except.ok.inj h).symm⟩

/-! ## The search for a nonce (43_ecdsa.md R175, R176) -/

section Search
variable {key z : Nat} {lowS : Bool}

/-- The generator's search is the search over the list of its candidates. -/
theorem signDrbg_eq_signTable (fuel : Nat) (g : Drbg) :
    signDrbg key z lowS fuel g = signTable key z lowS ((List.range fuel).map (drbgCandidate g)) := by
  induction fuel generalizing g with
  | zero => rfl
  | succ fuel ih =>
    rw [List.range_succ_eq_map, List.map_cons, List.map_map, signDrbg, signTable, ih]
    rfl

theorem signTable_of_ok {k : Nat} {sig : Nat × Nat} (ks : List Nat) (h : tryNonce key z lowS k = .ok sig) :
    signTable key z lowS (k :: ks) = .ok sig := by
  rw [signTable, h]

theorem signTable_of_error {k : Nat} {e : ErrCode} (ks : List Nat) (h : tryNonce key z lowS k = .error e) :
    signTable key z lowS (k :: ks) = signTable key z lowS ks := by
  rw [signTable, h]

/-- Rejected candidates leave no trace. -/
theorem signTable_append_of_rejected {ks : List Nat} (rest : List Nat)
    (h : ∀ k ∈ ks, ∃ e, tryNonce key z lowS k = .error e) :
    signTable key z lowS (ks ++ rest) = signTable key z lowS rest := by
  induction ks with
  | nil => rfl
  | cons k ks ih =>
    obtain ⟨⟨e, he⟩, hks⟩ := List.forall_mem_cons.1 h
    rw [List.cons_append, signTable_of_error _ he, ih hks]

/-- The first good candidate signs. -/
theorem signTable_of_first_good {candidate : Nat → Nat} {limit j : Nat} {sig : Nat × Nat} (hj : j < limit)
    (hbad : ∀ l, l < j → ∃ e, tryNonce key z lowS (candidate l) = .error e)
    (hgood : tryNonce key z lowS (candidate j) = .ok sig) :
    signTable key z lowS ((List.range limit).map candidate) = .ok sig := by
  obtain ⟨m, rfl⟩ := Nat.exists_eq_add_of_lt hj
  rw [Nat.add_assoc, List.range_add, List.map_append, signTable_append_of_rejected _ (by simpa using hbad),
    List.range_succ_eq_map, List.map_cons, List.map_cons]
  exact signTable_of_ok _ hgood

theorem signTable_of_all_bad {candidate : Nat → Nat} {limit : Nat}
    (hbad : ∀ l, l < limit → ∃ e, tryNonce key z lowS (candidate l) = .error e) :
    signTable key z lowS ((List.range limit).map candidate) = .error .nonceExhausted := by
  have h := signTable_append_of_rejected (ks := (List.range limit).map candidate) [] (by simpa using hbad)
  rwa [List.append_nil] at h

/-- A search that signs has found a candidate that signs. -/
theorem signTable_eq_ok {ks : List Nat} {sig : Nat × Nat} (h : signTable key z lowS ks = .ok sig) :
    ∃ k, tryNonce key z lowS k = .ok sig := by
  induction ks with
  | nil => cases h
  | cons k ks ih =>
    cases hk : tryNonce key z lowS k with
    | ok sig' => exact ⟨k, by rw [hk, ← h, signTable_of_ok ks hk]⟩
    | error e => exact ih (by rwa [signTable_of_error ks hk] at h)

theorem signWith_eq_ok {s : State} {src : NonceSrc} {sig : Nat × Nat} (h : signWith s key z lowS src = .ok sig) :
    ∃ k, tryNonce key z lowS k = .ok sig := by
  cases src with
  | drbg =>
    rw [signWith, signDrbg_eq_signTable] at h
    exact signTable_eq_ok h
  | fixed rc => exact ⟨s.natR rc, h⟩
  | table cnt => exact signTable_eq_ok h

end Search

/-! ## The command `SIGN` (43_ecdsa.md R177) -/

theorem sign_wellFormed {rd : RIdx} (rmsg rkey : RIdx) (lowS : Bool) {src : NonceSrc} (hrd : rd.val ≤ 14)
    (hsrc : nonceSrcOk src = true) : (Instr.sign rd rmsg rkey lowS src).wellFormed = true := by
  have hp : pairOk rd = true := decide_eq_true hrd
  simp [Instr.wellFormed, Instr.check, hp, hsrc]

theorem pairHigh_eq (i : RIdx) : pairHigh i = Fin.ofNat 16 (i.val + 1) := Fin.ext rfl

section Sign
variable {s t : State} {rd rmsg rkey : RIdx} {lowS : Bool} {src : NonceSrc}

theorem sign_key_range (hrd : rd.val ≤ 14) (hsrc : nonceSrcOk src = true)
    (h : s.natR rkey = 0 ∨ Config.n ≤ s.natR rkey) : Raises (.sign rd rmsg rkey lowS src) s .range :=
  command_error (sign_wellFormed rmsg rkey lowS hrd hsrc) (by rw [keyOperand_of_out h, error_bind])

variable (hrd : rd.val ≤ 14) (hsrc : nonceSrcOk src = true) (h1 : 1 ≤ s.natR rkey) (hn : s.natR rkey < Config.n)
include hrd hsrc h1 hn

/-- With a key in range the command writes the pair its nonce source gives. -/
theorem sign_ok {sig : Nat × Nat} (h : signWith s (s.natR rkey) (s.natR rmsg % Config.n) lowS src = .ok sig) :
    exec (.sign rd rmsg rkey lowS src) s =
      .next ((s.setNatR rd sig.1).setNatR (Fin.ofNat 16 (rd.val + 1)) sig.2) :=
  command_ok (sign_wellFormed rmsg rkey lowS hrd hsrc)
    (by rw [keyOperand_of_range h1 hn, ok_bind, truncateToN_natR, h, ok_bind, pairHigh_eq])

/-- With a key in range the command raises the fault of its nonce source. -/
theorem sign_error {e : ErrCode} (h : signWith s (s.natR rkey) (s.natR rmsg % Config.n) lowS src = .error e) :
    Raises (.sign rd rmsg rkey lowS src) s e :=
  command_error (sign_wellFormed rmsg rkey lowS hrd hsrc)
    (by rw [keyOperand_of_range h1 hn, ok_bind, truncateToN_natR, h, error_bind])

end Sign

/-- The model's inverse of a residue modulo `n` is any inverse. -/
theorem invN_eq_of_mul_mod {x w : Nat} (h1 : 1 ≤ x) (hx : x < Config.n) (hw : w < Config.n)
    (h : x * w % Config.n = 1) : invN x = w :=
  inverse_unique (invMod_lt x prime_n.one_lt) hw (mul_invMod prime_n (by decide) h1 hx) h

/-- Settles O51: the tests of one candidate in their order. -/
theorem signWithAFixedNonce : Obligations.SignWithAFixedNonce := by
  intro s rd rmsg rkey rc lowS hrd
  refine ⟨sign_key_range hrd rfl, fun h1 hn hk => sign_error hrd rfl h1 hn (tryNonce_of_out _ _ _ hk),
    fun h1 hn h2 hk x y kinv hR hlt hinv => ?_⟩
  have hkinv : invN (s.natR rc) = kinv := invN_eq_of_mul_mod (by omega) (by omega) hlt hinv
  have hraw : rawS (s.natR rkey) (s.natR rmsg % Config.n) (s.natR rc) (x % Config.n) =
      kinv * ((x % Config.n * s.natR rkey + s.natR rmsg) % Config.n) % Config.n := by
    rw [rawS, hkinv, Nat.add_mod_mod, mulN]
  have htry := tryNonce_of_fin (s.natR rkey) (s.natR rmsg % Config.n) lowS h2 hk hR
  rw [hraw] at htry
  refine ⟨fun hr => sign_error hrd rfl h1 hn ?_, fun hr hs => sign_error hrd rfl h1 hn ?_,
    fun hr hs => sign_ok (sig := (_, lowForm lowS _)) hrd rfl h1 hn ?_⟩
  · exact htry.trans (if_pos hr)
  · exact htry.trans ((if_neg hr).trans (if_pos hs))
  · exact htry.trans ((if_neg hr).trans (if_neg hs))

/-- Settles O52: the generator's candidates and the table's entries are both a list that is searched from its head. -/
theorem signSearchesItsCandidates : Obligations.SignSearchesItsCandidates := by
  intro s rd rmsg rkey lowS src hrd hsrc
  refine ⟨sign_key_range hrd hsrc, fun limit candidate h1 hn hcand => ?_⟩
  have hsearch : signWith s (s.natR rkey) (s.natR rmsg % Config.n) lowS src =
      signTable (s.natR rkey) (s.natR rmsg % Config.n) lowS ((List.range limit).map candidate) := by
    rcases hcand with ⟨rfl, rfl, rfl⟩ | ⟨cnt, rfl, rfl, rfl⟩
    · exact signDrbg_eq_signTable _ _
    · rfl
  refine ⟨fun j sig hj hbad hgood => ?_, fun hbad => ?_⟩
  · exact sign_ok hrd hsrc h1 hn (hsearch.trans (signTable_of_first_good hj hbad hgood))
  · exact sign_error hrd hsrc h1 hn (hsearch.trans (signTable_of_all_bad hbad))

/-- A `SIGN` that leaves no fault behind had a key in range and found a nonce that signs. -/
theorem sign_next_inv {s t : State} {rd rmsg rkey : RIdx} {lowS : Bool} {src : NonceSrc}
    (h : exec (.sign rd rmsg rkey lowS src) s = .next t) (herr : t.err = false) :
    (1 ≤ s.natR rkey ∧ s.natR rkey < Config.n) ∧ ∃ sig k x y,
      SignsWith (s.natR rkey) (s.natR rmsg % Config.n) lowS sig k x y ∧
        t = (s.setNatR rd sig.1).setNatR (pairHigh rd) sig.2 := by
  obtain ⟨-, hrule⟩ := command_next_inv h herr
  obtain ⟨key, hkey, hrule⟩ := bind_eq_ok.1 hrule
  obtain ⟨hrange, rfl⟩ := keyOperand_eq_ok.1 hkey
  obtain ⟨sig, hsig, ht⟩ := bind_eq_ok.1 hrule
  rw [truncateToN_natR] at hsig
  obtain ⟨k, hk⟩ := signWith_eq_ok hsig
  obtain ⟨x, y, hxy⟩ := signsWith_of_tryNonce hk
  exact ⟨hrange, sig, k, x, y, hxy, (Except.ok.inj ht).symm⟩

/-- The low-S rule keeps a value in range and makes it low, for `n` is odd. -/
theorem lowForm_bounds {lowS : Bool} {sv : Nat} (h0 : sv ≠ 0) (hlt : sv < Config.n) :
    1 ≤ lowForm lowS sv ∧ lowForm lowS sv < Config.n ∧ (lowS = true → lowForm lowS sv ≤ Config.halfN) := by
  have hhalf : Config.n = 2 * Config.halfN + 1 := by decide
  unfold lowForm
  split_ifs with h
  · omega
  · exact ⟨by omega, hlt, fun hl => Nat.not_lt.1 fun hs => h ⟨hl, hs⟩⟩

theorem mod_n_lt_n (x : Nat) : x % Config.n < Config.n := Nat.mod_lt x prime_n.pos

/-- Both halves of a signature are in `[1, n-1]`, and the second is low when asked for (43_ecdsa.md R160). -/
theorem SignsWith.bounds {key z k x y : Nat} {lowS : Bool} {sig : Nat × Nat} (h : SignsWith key z lowS sig k x y) :
    (1 ≤ sig.1 ∧ sig.1 < Config.n) ∧ 1 ≤ sig.2 ∧ sig.2 < Config.n ∧ (lowS = true → sig.2 ≤ Config.halfN) := by
  rw [h.eq]
  exact ⟨⟨Nat.one_le_iff_ne_zero.2 h.r_ne, mod_n_lt_n x⟩, lowForm_bounds h.s_ne (mod_n_lt_n _)⟩

/-- What the registers of a pair hold after both halves are written. -/
theorem natR_setPair (s : State) (i : RIdx) {v1 v2 : Nat} (h1 : v1 < Config.n) (h2 : v2 < Config.n) :
    ((s.setNatR i v1).setNatR (pairHigh i) v2).natR i = v1 ∧
      ((s.setNatR i v1).setNatR (pairHigh i) v2).natR (pairHigh i) = v2 := by
  have hn : Config.n < 2 ^ 256 := by decide
  rw [natR_setNatR_of_ne _ (pairHigh_ne i), natR_setNatR_self s i (h1.trans hn), natR_setNatR_self _ _ (h2.trans hn)]
  exact ⟨rfl, rfl⟩

/-- Settles O53: a signature passed the checks of one candidate, and the low-S rule keeps the range. -/
theorem signaturesAreInRange : Obligations.SignaturesAreInRange := by
  intro s t rd rmsg rkey lowS src _ hexec herr
  obtain ⟨-, sig, k, x, y, hsig, rfl⟩ := sign_next_inv hexec herr
  obtain ⟨⟨hr1, hrn⟩, hs1, hsn, hlow⟩ := hsig.bounds
  obtain ⟨hr, hs⟩ := natR_setPair s rd hrn hsn
  rw [hr, hs]
  exact ⟨hr1, hrn, hs1, hsn, hlow⟩

/-! ## Verification (43_ecdsa.md R178, R179) -/

theorem muladd_wf (k1 k2 : Nat) {q1 q2 : Pt} (h1 : q1.wf = true) (h2 : q2.wf = true) : (muladd k1 q1 k2 q2).wf = true := by
  have : Fact (Nat.Prime Config.p) := ⟨prime_p⟩
  obtain ⟨hadd, -⟩ := curvePointsFormAnAbelianGroup _ _ .inf (smul_wf k1 h1) (smul_wf k2 h2) rfl
  exact hadd

theorem lt_p_of_wf {x y : Nat} (h : (Pt.fin x y).wf = true) : x < Config.p := by
  simp only [Pt.wf, onCurve, Bool.and_eq_true, decide_eq_true_eq] at h
  exact h.1.1

theorem gen_wf : Pt.gen.wf = true := by decide +kernel

theorem verify_of_out {r sv : Nat} (msg : Nat) (q : Pt) (h : r = 0 ∨ Config.n ≤ r ∨ sv = 0 ∨ Config.n ≤ sv) :
    verify msg r sv q = false := if_pos h

/-- The verdict on a pair in range: the sum of the two multiples is finite and its x coordinate has the residue `r`. -/
theorem verify_iff {r sv : Nat} (msg : Nat) {q : Pt} (hr : 1 ≤ r ∧ r < Config.n) (hs : 1 ≤ sv ∧ sv < Config.n)
    (hq : q.wf = true) :
    verify msg r sv q = true ↔ ∃ x y, x % Config.n = r ∧
      muladd (msg * invN sv % Config.n) Pt.gen (r * invN sv % Config.n) q = .fin x y := by
  have hin : ¬(r = 0 ∨ r ≥ Config.n ∨ sv = 0 ∨ sv ≥ Config.n) := by omega
  have hwf := muladd_wf (msg * invN sv % Config.n) (r * invN sv % Config.n) gen_wf hq
  rw [verify, if_neg hin]
  dsimp only
  cases hR : muladd (msg * invN sv % Config.n) Pt.gen (r * invN sv % Config.n) q with
  | inf => simp
  | fin x y =>
    rw [hR] at hwf
    simp [Nat.mod_eq_of_lt (lt_p_of_wf hwf)]

/-- A finite public key on the curve gives the verdict and no fault. -/
theorem verify_next {s : State} {aq : AIdx} (rmsg rr rs : RIdx) (hfin : (s.getA aq).inf = false)
    (hwf : (s.getA aq).toPt.wf = true) :
    exec (.verify rmsg rr rs aq) s =
      .next (s.setT (verify (s.natR rmsg) (s.natR rr) (s.natR rs) (s.getA aq).toPt)) :=
  command_ok rfl (by rw [finiteOperand_of_finite hfin, ok_bind, pointOperand_of_wf hwf, ok_bind])

/-- Settles O55: the two tests of the public key, then the verdict on the signature. -/
theorem verifyCommand : Obligations.VerifyCommand := by
  intro s rmsg rr rs aq
  refine ⟨fun hinf => ?_, fun hfin e he => ?_, fun hfin hwf hout => ?_, fun hfin hwf hr1 hrn hs1 hsn w hw hinv => ?_⟩
  · exact command_error rfl (by rw [finiteOperand_of_inf hinf, error_bind])
  · exact command_error rfl (by rw [finiteOperand_of_finite hfin, ok_bind, pointOperand_eq_error he, error_bind])
  · rw [verify_next rmsg rr rs hfin hwf, verify_of_out _ _ hout]
  · refine ⟨_, verify_next rmsg rr rs hfin hwf, ?_⟩
    rw [← invN_eq_of_mul_mod hs1 hsn hw hinv]
    exact verify_iff _ ⟨hr1, hrn⟩ ⟨hs1, hsn⟩ hwf

/-! ## A signature verifies (43_ecdsa.md R180) -/

theorem invN_cast {x : Nat} (h1 : 1 ≤ x) (hx : x < Config.n) : (x : ZMod Config.n) * (invN x : Nat) = 1 := by
  have h : x * invN x % Config.n = 1 % Config.n := (mul_invMod prime_n (by decide) h1 hx).trans (by decide)
  rw [← Nat.cast_mul, ← Nat.cast_one, ZMod.natCast_eq_natCast_iff']
  exact h

/-- The low-S rule keeps a residue or negates it. -/
theorem lowForm_cast (lowS : Bool) {sv : Nat} (h : sv < Config.n) :
    (lowForm lowS sv : ZMod Config.n) = sv ∨ (lowForm lowS sv : ZMod Config.n) = -sv := by
  unfold lowForm
  split_ifs
  · exact .inr (by rw [Nat.cast_sub h.le, ZMod.natCast_self, zero_sub])
  · exact .inl rfl

/-- The nonce times the raw `s` is `r * key + z`. -/
theorem rawS_cast {k : Nat} (key z r : Nat) (h1 : 1 ≤ k) (hk : k < Config.n) :
    (k : ZMod Config.n) * rawS key z k r = r * key + z := by
  rw [rawS, mulN, ZMod.natCast_mod, Nat.cast_mul, ← mul_assoc, invN_cast h1 hk, one_mul, ZMod.natCast_mod]
  push_cast
  rfl

/-- `u1 + u2 * key`: the multiple of the generator that verification computes under the public key of `key` (R178). -/
def verificationScalar (key msg : Nat) (sig : Nat × Nat) : Nat :=
  msg * invN sig.2 % Config.n + sig.1 * invN sig.2 % Config.n * key

theorem verificationScalar_cast (key msg : Nat) (sig : Nat × Nat) :
    (verificationScalar key msg sig : ZMod Config.n) = (sig.1 * key + msg) * (invN sig.2 : Nat) := by
  unfold verificationScalar
  push_cast [ZMod.natCast_mod]
  ring

/-- The scalar of verification is the nonce, or its opposite when the low-S rule negated `s`. -/
theorem SignsWith.verification_scalar {key msg k x y : Nat} {lowS : Bool} {sig : Nat × Nat}
    (h : SignsWith key (msg % Config.n) lowS sig k x y) :
    (verificationScalar key msg sig : ZMod Config.n) = k ∨ (verificationScalar key msg sig : ZMod Config.n) = -k := by
  obtain ⟨⟨hr1, hrn⟩, hs1, hsn, -⟩ := h.bounds
  have hk := h.lt
  have hraw := rawS_cast key (msg % Config.n) (x % Config.n) (Nat.one_le_of_lt h.two_le) (by omega)
  have hinv := invN_cast hs1 hsn
  have hlow := lowForm_cast lowS (sv := rawS key (msg % Config.n) k (x % Config.n)) (mod_n_lt_n _)
  have hmsg : (k : ZMod Config.n) * rawS key (msg % Config.n) k (x % Config.n) = sig.1 * key + msg := by
    rw [hraw, ZMod.natCast_mod msg, h.eq]
  have hs2 : sig.2 = lowForm lowS (rawS key (msg % Config.n) k (x % Config.n)) := congrArg Prod.snd h.eq
  rw [← hs2] at hlow
  rw [verificationScalar_cast, ← hmsg]
  rcases hlow with hlow | hlow
  · exact .inl (by linear_combination (k : ZMod Config.n) * hinv - k * (invN sig.2 : Nat) * hlow)
  · exact .inr (by linear_combination -(k : ZMod Config.n) * hinv + k * (invN sig.2 : Nat) * hlow)

section Field
variable [Fact (Nat.Prime Config.p)]

/-- Scalars count modulo `n` on the curve, which has `n` points. -/
theorem nsmul_of_cast_eq {u k : Nat} (P : curve.Point) (h : (u : ZMod Config.n) = k) : u • P = k • P := by
  have hord : addOrderOf P ∣ Config.n := addOrderOf_dvd_of_nsmul_eq_zero (n_nsmul P)
  exact nsmul_eq_nsmul_iff_modEq.2 (((ZMod.natCast_eq_natCast_iff _ _ _).1 h).of_dvd hord)

theorem nsmul_of_cast_eq_neg {u k : Nat} (P : curve.Point) (h : (u : ZMod Config.n) = -k) : u • P = -(k • P) := by
  have hsum : ((u + k : Nat) : ZMod Config.n) = (0 : Nat) := by
    push_cast
    rw [h, neg_add_cancel]
  rw [eq_neg_iff_add_eq_zero, ← add_nsmul, nsmul_of_cast_eq P hsum, zero_nsmul]

/-- Opposite multiples of a point have one x coordinate. -/
theorem ofPoint_neg_eq_fin {P : curve.Point} {x y : Nat} (h : Pt.ofPoint P = .fin x y) :
    ∃ y', Pt.ofPoint (-P) = .fin x y' := ⟨_, by rw [Pt.ofPoint_neg, h, Pt.neg]⟩

theorem muladd_verificationScalar (key msg : Nat) (sig : Nat × Nat) (G : curve.Point) :
    muladd (msg * invN sig.2 % Config.n) (.ofPoint G) (sig.1 * invN sig.2 % Config.n) (smul key (.ofPoint G)) =
      .ofPoint (verificationScalar key msg sig • G) := by
  rw [muladd, smul_ofPoint, smul_ofPoint, smul_ofPoint, ← Pt.ofPoint_add, ← mul_nsmul', ← add_nsmul, verificationScalar]

/-- The point that verification computes from a signature has the x coordinate of the nonce's point. -/
theorem SignsWith.verification_point {key msg k x y : Nat} {lowS : Bool} {sig : Nat × Nat}
    (h : SignsWith key (msg % Config.n) lowS sig k x y) :
    ∃ y', muladd (msg * invN sig.2 % Config.n) Pt.gen (sig.1 * invN sig.2 % Config.n) (smul key Pt.gen) = .fin x y' := by
  obtain ⟨G, hG, -⟩ := exists_generator
  have hpoint := h.point
  rw [← hG, smul_ofPoint] at hpoint
  rw [← hG, muladd_verificationScalar]
  rcases h.verification_scalar with hu | hu
  · exact ⟨y, by rw [nsmul_of_cast_eq G hu, hpoint]⟩
  · rw [nsmul_of_cast_eq_neg G hu]
    exact ofPoint_neg_eq_fin hpoint

end Field

/-- A public key is a finite point: the generator has the prime order `n`. -/
theorem smul_gen_ne_inf {key : Nat} (h1 : 1 ≤ key) (hn : key < Config.n) : smul key Pt.gen ≠ .inf := by
  have : Fact (Nat.Prime Config.p) := ⟨prime_p⟩
  have : Fact (Nat.Prime Config.n) := ⟨prime_n⟩
  obtain ⟨G, hG, hne⟩ := exists_generator
  rw [← hG, smul_ofPoint, Ne, Pt.ofPoint_eq_inf_iff, ← addOrderOf_dvd_iff_nsmul_eq_zero,
    addOrderOf_eq_prime (n_nsmul G) hne]
  exact Nat.not_dvd_of_pos_of_lt h1 hn

theorem inf_eq_false_of_toPt_ne {q : APoint} (h : q.toPt ≠ .inf) : q.inf = false :=
  Bool.eq_false_iff.2 fun hinf => h (if_pos hinf)

/-- Settles O54: verification recovers the nonce's point, or its opposite after the low-S rule. -/
theorem signedMessagesVerify : Obligations.SignedMessagesVerify := by
  have : Fact (Nat.Prime Config.p) := ⟨prime_p⟩
  intro s t rd rmsg rkey lowS src aq _ hexec herr hmsgr hmsgs hkey
  obtain ⟨⟨hk1, hkn⟩, sig, k, x, y, hsig, rfl⟩ := sign_next_inv hexec herr
  obtain ⟨hr, hs1, hsn, -⟩ := hsig.bounds
  obtain ⟨hregr, hregs⟩ := natR_setPair s rd hr.2 hsn
  obtain ⟨y', hpoint⟩ := hsig.verification_point
  have hfin : (s.getA aq).inf = false := inf_eq_false_of_toPt_ne (hkey ▸ smul_gen_ne_inf hk1 hkn)
  have hwf : (s.getA aq).toPt.wf = true := hkey ▸ smul_wf _ gen_wf
  have haccept : verify (s.natR rmsg) sig.1 sig.2 (s.getA aq).toPt = true :=
    (verify_iff _ hr ⟨hs1, hsn⟩ hwf).2 ⟨x, y', (congrArg Prod.fst hsig.eq).symm, by rw [hkey, hpoint]⟩
  have hnext := verify_next (s := (s.setNatR rd sig.1).setNatR (pairHigh rd) sig.2) rmsg rd (pairHigh rd) hfin hwf
  rw [hnext, hregr, hregs, natR_setNatR_of_ne _ hmsgs, natR_setNatR_of_ne _ hmsgr]
  exact congrArg (fun b => Host.Outcome.next (State.setT _ b)) haccept

end Sys2Proof.Machine

/-! ## The published digests (44_hash.md R206) -/

namespace Sys2Proof.Machine

/-- Settles O60: the four digests, computed. -/
theorem publishedDigests : Obligations.PublishedDigests := by
  exact ⟨by decide +kernel, by decide +kernel, by decide +kernel, by decide +kernel⟩

end Sys2Proof.Machine

/-! ## Absorbing whole blocks (44_hash.md R193) -/

namespace Sys2Proof.Machine

/-- The whole blocks of `buf` compressed, and the bytes behind them: the heart of `absorb` (R193). -/
def compressFull (alg : HashAlg) (h : Vector Word64 8) (buf : List Byte) : Vector Word64 8 × List Byte :=
  (compressBlocks alg (buf.length / blockSize alg) h buf, buf.drop (buf.length / blockSize alg * blockSize alg))

/-- What `absorb` leaves in the context, in terms of `compressFull`. -/
theorem absorbBytes_eq (hc : HashCtx) (data : List Byte) :
    absorbBytes hc data =
      { hc with
        h := (compressFull hc.alg hc.h (hc.pending ++ data)).1
        hlen := BitVec.ofNat 64 (hc.hlen.toNat + data.length)
        npend := BitVec.ofNat 7 (compressFull hc.alg hc.h (hc.pending ++ data)).2.length
        pend := pad128 (compressFull hc.alg hc.h (hc.pending ++ data)).2 } := rfl

/-- Compressing reads no further than its blocks. -/
theorem compressBlocks_append {alg : HashAlg} {count : Nat} {buf : List Byte} (h : Vector Word64 8) (tail : List Byte)
    (hfit : count * blockSize alg ≤ buf.length) :
    compressBlocks alg count h (buf ++ tail) = compressBlocks alg count h buf := by
  induction count generalizing h buf with
  | zero => rfl
  | succ count ih =>
    rw [Nat.succ_mul] at hfit
    have hblock : blockSize alg ≤ buf.length := by omega
    have hrest : count * blockSize alg ≤ (buf.drop (blockSize alg)).length := by
      rw [List.length_drop]
      omega
    rw [compressBlocks, List.take_append_of_le_length hblock, List.drop_append_of_le_length hblock, ih _ hrest,
      compressBlocks]

theorem compressBlocks_add (alg : HashAlg) (m k : Nat) (h : Vector Word64 8) (buf : List Byte) :
    compressBlocks alg (m + k) h buf =
      compressBlocks alg k (compressBlocks alg m h buf) (buf.drop (m * blockSize alg)) := by
  induction m generalizing h buf with
  | zero => simp [compressBlocks]
  | succ m ih => rw [Nat.succ_add, compressBlocks, ih, List.drop_drop, Nat.succ_mul, Nat.add_comm, compressBlocks]

theorem length_compressFull_snd (alg : HashAlg) (h : Vector Word64 8) (buf : List Byte) :
    (compressFull alg h buf).2.length = buf.length % blockSize alg := by
  rw [compressFull, List.length_drop, ← Nat.mod_eq_sub_div_mul]

/-- The bytes left behind the whole blocks wait for the next ones. -/
theorem compressFull_append (alg : HashAlg) (h : Vector Word64 8) (buf tail : List Byte) :
    compressFull alg h (buf ++ tail) = compressFull alg (compressFull alg h buf).1 ((compressFull alg h buf).2 ++ tail) := by
  have hfit : buf.length / blockSize alg * blockSize alg ≤ buf.length := Nat.div_mul_le_self _ _
  have hcount : (buf ++ tail).length / blockSize alg = buf.length / blockSize alg +
      ((compressFull alg h buf).2 ++ tail).length / blockSize alg := by
    rw [List.length_append, List.length_append, length_compressFull_snd, ← Nat.mul_add_div (blockSize_pos alg),
      ← Nat.add_assoc, Nat.div_add_mod]
  have hdrop : (buf ++ tail).drop (buf.length / blockSize alg * blockSize alg) = (compressFull alg h buf).2 ++ tail :=
    List.drop_append_of_le_length hfit
  refine Prod.ext ?_ ?_
  · rw [compressFull, hcount, compressBlocks_add, hdrop, compressBlocks_append h tail hfit]
    rfl
  · rw [compressFull, hcount, Nat.add_mul, ← List.drop_drop, hdrop]
    rfl

/-- The bytes of a padded string. -/
theorem pad128_take {bs : List Byte} (h : bs.length ≤ 128) : (pad128 bs).toList.take bs.length = bs := by
  have htoList : (pad128 bs).toList = (bs ++ zeros 128).take 128 := rfl
  rw [htoList, List.take_take, Nat.min_eq_left h, List.take_left]

/-- What waits after `absorb` are the bytes behind the whole blocks. -/
theorem pending_absorbBytes (hc : HashCtx) (data : List Byte) :
    (absorbBytes hc data).pending = (compressFull hc.alg hc.h (hc.pending ++ data)).2 := by
  have hlt : (compressFull hc.alg hc.h (hc.pending ++ data)).2.length < 128 := by
    rw [length_compressFull_snd]
    exact (Nat.mod_lt _ (blockSize_pos _)).trans_le (blockSize_le _)
  rw [absorbBytes_eq, HashCtx.pending, BitVec.toNat_ofNat, Nat.mod_eq_of_lt hlt]
  exact pad128_take hlt.le

/-- Absorbing in two parts, before the length test: no hypothesis on the context is needed. -/
theorem absorbBytes_append (hc : HashCtx) (a b : List Byte) :
    absorbBytes (absorbBytes hc a) b = absorbBytes hc (a ++ b) := by
  have hlen : BitVec.ofNat 64 ((absorbBytes hc a).hlen.toNat + b.length) =
      BitVec.ofNat 64 (hc.hlen.toNat + (a ++ b).length) := by
    apply BitVec.eq_of_toNat_eq
    simp [absorbBytes, Nat.add_assoc]
  rw [absorbBytes_eq (absorbBytes hc a), absorbBytes_eq hc (a ++ b), pending_absorbBytes, hlen, ← List.append_assoc,
    compressFull_append hc.alg hc.h (hc.pending ++ a)]
  rfl

theorem absorb_of_lt {hc : HashCtx} {data : List Byte} (h : hc.hlen.toNat + data.length < 2 ^ 61) :
    absorb hc data = .ok (absorbBytes hc data) := if_neg (Nat.not_le.2 h)

theorem absorb_of_le {hc : HashCtx} {data : List Byte} (h : 2 ^ 61 ≤ hc.hlen.toNat + data.length) :
    absorb hc data = .error .hashLen := if_pos h

/-- The byte counter does not wrap below the length limit (log entry 20). -/
theorem hlen_absorbBytes {hc : HashCtx} {data : List Byte} (h : hc.hlen.toNat + data.length < 2 ^ 61) :
    (absorbBytes hc data).hlen.toNat = hc.hlen.toNat + data.length :=
  (BitVec.toNat_ofNat _ 64).trans (Nat.mod_eq_of_lt (by omega))

/-- Settles O58: the first part alone is too long, or the counter after it is exact and both sides test the same sum. -/
theorem absorbSplitsAnywhere : Obligations.AbsorbSplitsAnywhere := by
  intro hc a b _ _
  have hsum : hc.hlen.toNat + (a ++ b).length = hc.hlen.toNat + a.length + b.length := by
    rw [List.length_append, Nat.add_assoc]
  rcases Nat.lt_or_ge (hc.hlen.toNat + a.length) (2 ^ 61) with ha | ha
  · rw [absorb_of_lt ha, ok_bind, absorb, absorb, hlen_absorbBytes ha, hsum, absorbBytes_append]
  · rw [absorb_of_le ha, error_bind, absorb_of_le (by omega)]

end Sys2Proof.Machine

/-! ## The hash commands, one equation for each end (44_hash.md R195 to R203) -/

namespace Sys2Proof.Machine

section HashCommands
variable {s : State} {i : Instr} {alg : HashAlg} {off : Off}

/-- A key of no bytes is a key of zeros (10_state.md R35). -/
theorem pad128_nil : pad128 [] = Vector.replicate 128 0 := by
  refine Vector.toList_inj.1 ?_
  rw [Vector.toList_replicate]
  exact List.take_of_length_le (length_zeros 128).le

theorem exec_hinit (s : State) (alg : HashAlg) :
    exec (.hinit alg) s = .next (s.setHash (freshCtx alg false) (pad128 [])) :=
  command_ok (i := .hinit alg) (s := s) rfl rfl

theorem exec_hmacinit {len : Byte} (h : off.toNat + len.toNat ≤ 512) :
    exec (.hmacinit alg off len) s = .next (s.setHash
      (absorbBytes (freshCtx alg true) (xorBytes 0x36 (blockKey alg (s.memRead off.toNat len.toNat))))
      (pad128 (blockKey alg (s.memRead off.toNat len.toNat)))) :=
  command_ok rfl (by rw [bufOperand_of_le h, ok_bind])

theorem raises_hmacinit {len : Byte} (h : 512 < off.toNat + len.toNat) :
    Raises (.hmacinit alg off len) s .bufRange :=
  command_error rfl (by rw [bufOperand_of_lt h, error_bind])

/-! `HUPDATE` tests its range, the state and the length, in this order (R197). -/

section Update
variable {len : BitVec 12}

theorem raises_hupdate_range (h : 512 < off.toNat + len.toNat) : Raises (.hupdate off len) s .bufRange :=
  command_error rfl (by rw [bufOperand_of_lt h, error_bind])

theorem raises_hupdate_state (h : off.toNat + len.toNat ≤ 512) (ha : s.hc.active = false) :
    Raises (.hupdate off len) s .hashState :=
  command_error rfl (by rw [bufOperand_of_le h, ok_bind, require_false (by simp [ha]), error_bind])

theorem raises_hupdate_len (h : off.toNat + len.toNat ≤ 512) (ha : s.hc.active = true)
    (hlen : 2 ^ 61 ≤ s.hc.hlen.toNat + len.toNat) : Raises (.hupdate off len) s .hashLen := by
  have habsorb : absorb s.hc (s.memRead off.toNat len.toNat) = .error .hashLen :=
    absorb_of_le (by rwa [State.memRead, Memory.readBytes_length])
  exact command_error rfl (by rw [bufOperand_of_le h, ok_bind, require_true ha, ok_bind, habsorb, error_bind])

theorem exec_hupdate (h : off.toNat + len.toNat ≤ 512) (ha : s.hc.active = true)
    (hlen : s.hc.hlen.toNat + len.toNat < 2 ^ 61) :
    exec (.hupdate off len) s = .next (s.setHash (absorbBytes s.hc (s.memRead off.toNat len.toNat)) s.hkey) := by
  have habsorb : absorb s.hc (s.memRead off.toNat len.toNat) = .ok (absorbBytes s.hc (s.memRead off.toNat len.toNat)) :=
    absorb_of_lt (by rwa [State.memRead, Memory.readBytes_length])
  exact command_ok rfl (by rw [bufOperand_of_le h, ok_bind, require_true ha, ok_bind, habsorb, ok_bind])

end Update

/-! The digest commands test the state before the range (R198 to R200, R203). -/

/-- The common end of the digest commands: the range test of `len` bytes, the store, and the context destroyed. -/
def digestEnd (s : State) (off : Off) (len : Nat) (bs : List Byte) : Except ErrCode State :=
  checkBuf off.toNat len >>= fun _ => .ok ((s.memWrite off.toNat bs).destroyHash)

theorem digestEnd_of_le {len : Nat} (bs : List Byte) (h : off.toNat + len ≤ 512) :
    digestEnd s off len bs = .ok ((s.memWrite off.toNat bs).destroyHash) := by
  rw [digestEnd, checkBuf_of_le h, ok_bind]

theorem digestEnd_of_lt {len : Nat} (bs : List Byte) (h : 512 < off.toNat + len) :
    digestEnd s off len bs = .error .bufRange := by
  rw [digestEnd, checkBuf_of_lt h, error_bind]

/-- A digest command in its three ends: in a context that is not `ready` it raises the state fault at every offset; in a
ready one it raises the range fault, or stores `bs` and destroys the context. -/
structure DigestCommand (i : Instr) (s : State) (off : Off) (len : Nat) (bs : List Byte) (ready : Prop) : Prop where
  wrongState : ¬ready → Raises i s .hashState
  outOfRange : ready → 512 < off.toNat + len → Raises i s .bufRange
  completes : ready → off.toNat + len ≤ 512 → exec i s = .next ((s.memWrite off.toNat bs).destroyHash)

theorem digestCommand_of_rule {len : Nat} {bs : List Byte} {ready : Prop} {rule : Except ErrCode State}
    (hexec : exec i s = command i s rule) (hw : i.wellFormed = true)
    (hready : ready → rule = digestEnd s off len bs) (hnot : ¬ready → rule = .error .hashState) :
    DigestCommand i s off len bs ready where
  wrongState h := hexec.trans (command_error hw (hnot h))
  outOfRange h hfit := hexec.trans (command_error hw ((hready h).trans (digestEnd_of_lt bs hfit)))
  completes h hfit := hexec.trans (command_ok hw ((hready h).trans (digestEnd_of_le bs hfit)))

/-- A completed digest command: the digest reads back from DBUF, and context and key are destroyed (R196). -/
theorem DigestCommand.result {len : Nat} {bs : List Byte} {ready : Prop} (h : DigestCommand i s off len bs ready)
    (hs : s.dbuf.wf = true) (hlen : bs.length = len) (hready : ready) (hfit : off.toNat + len ≤ 512) :
    ∃ t, exec i s = .next t ∧ t.memRead off.toNat len = bs ∧ t.hc = HashCtx.idle ∧ t.hkey = Vector.replicate 128 0 :=
  ⟨_, h.completes hready hfit, Memory.readBytes_writeBytes_of_length hs hlen hfit, rfl, pad128_nil⟩

/-- `HDIGEST` needs a plain hash (R198). -/
theorem digestCommand_hdigest (s : State) (off : Off) : DigestCommand (.hdigest off) s off (digestLen s.hc.alg)
    (finalize s.hc) (s.hc.active = true ∧ s.hc.hmac = false) :=
  digestCommand_of_rule rfl rfl (fun h => by rw [requireHashing, require_true h, ok_bind, digestEnd])
    fun h => by rw [requireHashing, require_false h, error_bind]

/-- The state test of the two composite digests: a plain SHA-256 hash is open (R199, R200). -/
theorem requireHashing_sha256 (s : State) (rest : Except ErrCode State) :
    (requireHashing s >>= fun _ => require (s.hc.alg = .sha256) .hashState >>= fun _ => rest) =
      if (s.hc.active = true ∧ s.hc.hmac = false) ∧ s.hc.alg = .sha256 then rest else .error .hashState := by
  by_cases hopen : s.hc.active = true ∧ s.hc.hmac = false
  · by_cases halg : s.hc.alg = .sha256
    · rw [requireHashing, require_true hopen, ok_bind, require_true halg, ok_bind, if_pos ⟨hopen, halg⟩]
    · rw [requireHashing, require_true hopen, ok_bind, require_false halg, error_bind, if_neg fun h => halg h.2]
  · rw [requireHashing, require_false hopen, error_bind, if_neg fun h => hopen h.1]

theorem digestCommand_hdigestH256 (s : State) (off : Off) : DigestCommand (.hdigestH256 off) s off 32
    (hash .sha256 (finalize s.hc)) ((s.hc.active = true ∧ s.hc.hmac = false) ∧ s.hc.alg = .sha256) :=
  digestCommand_of_rule rfl rfl (fun h => (requireHashing_sha256 s _).trans (if_pos h))
    fun h => (requireHashing_sha256 s _).trans (if_neg h)

theorem digestCommand_hdigestH160 (s : State) (off : Off) : DigestCommand (.hdigestH160 off) s off 20
    (hash .rmd160 (finalize s.hc)) ((s.hc.active = true ∧ s.hc.hmac = false) ∧ s.hc.alg = .sha256) :=
  digestCommand_of_rule rfl rfl (fun h => (requireHashing_sha256 s _).trans (if_pos h))
    fun h => (requireHashing_sha256 s _).trans (if_neg h)

/-- `HMACFINAL` needs an HMAC (R203). -/
theorem digestCommand_hmacfinal (s : State) (off : Off) : DigestCommand (.hmacfinal off) s off (digestLen s.hc.alg)
    (hash s.hc.alg (xorBytes 0x5C (s.hkey.toList.take (blockSize s.hc.alg)) ++ finalize s.hc))
    (s.hc.active = true ∧ s.hc.hmac = true) :=
  digestCommand_of_rule rfl rfl (fun h => by rw [require_true h, ok_bind, digestEnd])
    fun h => by rw [require_false h, error_bind]

end HashCommands

/-- Without `SRST`, a write to `CTRL` leaves the hash unit alone (10_state.md R33). -/
theorem writeCtrl_keeps_hash {w : Word32} (h : w.getLsbD 1 = false) (s : State) :
    (writeCtrl w s).hc = s.hc ∧ (writeCtrl w s).hkey = s.hkey := by
  rw [writeCtrl, if_neg (Bool.eq_false_iff.1 h)]
  split
  · exact ⟨rfl, rfl⟩
  · exact ⟨rfl, rfl⟩

/-- Settles O56: the hash commands by their equations, the other commands by their frame. -/
theorem hashContextStateTable : Obligations.HashContextStateTable := by
  intro s
  refine ⟨fun alg => ⟨_, exec_hinit s alg, rfl, rfl, rfl, rfl⟩,
    fun alg off len hfit => ⟨_, exec_hmacinit hfit, rfl, rfl, rfl⟩,
    fun off len hfit => ⟨raises_hupdate_state hfit, fun ha hlen => ⟨_, exec_hupdate hfit ha hlen, ha, rfl, rfl, rfl⟩⟩,
    fun off => ⟨fun h => ?_, fun h => ⟨?_, ?_⟩, fun h => ?_, fun hfit ha hm => ?_, fun hfit ha hm => ?_,
      fun hfit ha hm halg => ?_, fun hfit ha hm halg => ?_⟩,
    fun i t hi hexec => (exec_frame hexec).hash hi, fun w h => ?_, fun w h => ?_⟩
  · exact (digestCommand_hdigest s off).wrongState (by rcases h with h | h <;> simp [h])
  · exact (digestCommand_hdigestH256 s off).wrongState (by rcases h with h | h | h <;> simp [h])
  · exact (digestCommand_hdigestH160 s off).wrongState (by rcases h with h | h | h <;> simp [h])
  · exact (digestCommand_hmacfinal s off).wrongState (by rcases h with h | h <;> simp [h])
  · exact ⟨_, (digestCommand_hdigest s off).completes ⟨ha, hm⟩ hfit, rfl⟩
  · exact ⟨_, (digestCommand_hmacfinal s off).completes ⟨ha, hm⟩ hfit, rfl⟩
  · exact ⟨_, (digestCommand_hdigestH256 s off).completes ⟨⟨ha, hm⟩, halg⟩ hfit, rfl⟩
  · exact ⟨_, (digestCommand_hdigestH160 s off).completes ⟨⟨ha, hm⟩, halg⟩ hfit, rfl⟩
  · rw [writeCtrl_srst h]
    rfl
  · exact writeCtrl_keeps_hash h s

/-! ## The command programs (44_hash.md R205) -/

/-- The state in which a program's digest command finds the buffer: `data` absorbed in a fresh context, `key` in the key
register. -/
def State.absorbed (s : State) (alg : HashAlg) (hmac : Bool) (data key : List Byte) : State :=
  s.setHash (absorbBytes (freshCtx alg hmac) data) (pad128 key)

/-- The message of a program fits the buffer, and is absorbed in a context that has absorbed at most one block. -/
theorem exec_hupdate_message {s : State} {len : BitVec 12} (hlen : len.toNat ≤ 512) (ha : s.hc.active = true)
    (hlittle : s.hc.hlen.toNat ≤ 128) :
    exec (.hupdate 0 len) s = .next (s.setHash (absorbBytes s.hc (s.memRead 0 len.toNat)) s.hkey) :=
  exec_hupdate (off := 0) (by simpa using hlen) ha (by omega)

/-- A plain program: `HINIT`, `HUPDATE` of the message, and a digest command that is ready for what they leave. -/
theorem hash_program {s : State} {alg : HashAlg} {i : Instr} {len : BitVec 12} {off : Off} {n : Nat} {bs : List Byte}
    {ready : Prop} (hs : s.dbuf.wf = true) (hlen : len.toNat ≤ 512)
    (hend : DigestCommand i (s.absorbed alg false (s.memRead 0 len.toNat) []) off n bs ready) (hn : bs.length = n)
    (hready : ready) (hfit : off.toNat + n ≤ 512) :
    ∃ s1 s2 s3, exec (.hinit alg) s = .next s1 ∧ exec (.hupdate 0 len) s1 = .next s2 ∧ exec i s2 = .next s3 ∧
      s3.memRead off.toNat n = bs := by
  obtain ⟨s3, hdigest, hread, -⟩ := hend.result hs hn hready hfit
  exact ⟨_, _, s3, exec_hinit s alg, exec_hupdate_message hlen rfl (Nat.zero_le _), hdigest, hread⟩

/-- The inner pad block is one block, far below the length limit (R201, R202). -/
theorem padBlock_length_lt (alg : HashAlg) (key : List Byte) :
    (freshCtx alg true).hlen.toNat + (xorBytes 0x36 (blockKey alg key)).length < 2 ^ 61 := by
  have hb := blockSize_le alg
  have hfresh : (freshCtx alg true).hlen.toNat = 0 := rfl
  rw [hfresh, length_xorBytes, length_blockKey]
  omega

theorem hlen_absorbBytes_padBlock (alg : HashAlg) (key : List Byte) :
    (absorbBytes (freshCtx alg true) (xorBytes 0x36 (blockKey alg key))).hlen.toNat = blockSize alg := by
  rw [hlen_absorbBytes (padBlock_length_lt alg key), length_xorBytes, length_blockKey]
  exact Nat.zero_add _

/-- Absorbing the inner pad block leaves nothing pending: the counters of an open context agree (R193). -/
theorem npend_absorbBytes_padBlock (alg : HashAlg) (key : List Byte) :
    (absorbBytes (freshCtx alg true) (xorBytes 0x36 (blockKey alg key))).npend = 0 := by
  have hok := hashOk_absorbBytes rfl (hashOk_freshCtx alg true) (padBlock_length_lt alg key)
  obtain ⟨hnpend, -⟩ := (hashOk_iff_of_active rfl).1 hok
  rw [hlen_absorbBytes_padBlock] at hnpend
  exact BitVec.eq_of_toNat_eq (hnpend.trans (Nat.mod_self _))

/-- The start of the HMAC program: the inner pad block and the message are one absorbed string. -/
theorem hmac_program_start (s : State) (alg : HashAlg) {koff : Off} {klen : Byte} {len : BitVec 12}
    (hkey : koff.toNat + klen.toNat ≤ 512) (hlen : len.toNat ≤ 512) :
    let k0 := blockKey alg (s.memRead koff.toNat klen.toNat)
    ∃ s1, exec (.hmacinit alg koff klen) s = .next s1 ∧
      exec (.hupdate 0 len) s1 = .next (s.absorbed alg true (xorBytes 0x36 k0 ++ s.memRead 0 len.toNat) k0) := by
  intro k0
  refine ⟨_, exec_hmacinit hkey, ?_⟩
  rw [exec_hupdate_message hlen rfl ((hlen_absorbBytes_padBlock alg _).trans_le (blockSize_le alg)), State.absorbed,
    ← absorbBytes_append]
  rfl

/-- The key register holds the block key (R202). -/
theorem take_pad128_blockKey (alg : HashAlg) (key : List Byte) :
    (pad128 (blockKey alg key)).toList.take (blockSize alg) = blockKey alg key := by
  have htake := pad128_take ((length_blockKey alg key).trans_le (blockSize_le alg))
  rwa [length_blockKey] at htake

/-- Settles O59: each program starts by absorbing the message and ends by its digest command. -/
theorem hashProgramsComputeTheirFunctions : Obligations.HashProgramsComputeTheirFunctions := by
  intro s len off hs hlen
  refine ⟨fun alg hfit => ?_, fun hfit => ?_, fun hfit => ?_, fun alg koff klen hkey hfit => ?_⟩
  · exact hash_program hs hlen (digestCommand_hdigest _ off) (length_finalize _) ⟨rfl, rfl⟩ hfit
  · exact hash_program hs hlen (digestCommand_hdigestH256 _ off) (length_hash _ _) ⟨⟨rfl, rfl⟩, rfl⟩ hfit
  · exact hash_program hs hlen (digestCommand_hdigestH160 _ off) (length_hash _ _) ⟨⟨rfl, rfl⟩, rfl⟩ hfit
  · obtain ⟨s1, hinit, hupdate⟩ := hmac_program_start s alg hkey hlen
    obtain ⟨s3, hfinal, hread, -⟩ := (digestCommand_hmacfinal (s.absorbed alg true _ _) off).result
      hs (length_hash _ _) ⟨rfl, rfl⟩ hfit
    refine ⟨s1, _, s3, hinit, hupdate, hfinal, hread.trans ?_⟩
    exact congrArg (fun k0 => hash alg (xorBytes 0x5C k0 ++ _)) (take_pad128_blockKey alg _)

/-! ## The padding (44_hash.md R192) -/

/-- The number of zero bytes of the padding. -/
def padZeros (alg : HashAlg) (total : Nat) : Nat :=
  (((blockSize alg : Int) - lenField alg - 1 - total) % blockSize alg).toNat

/-- The length field: the bit length in the byte order of the algorithm. -/
def lenBytes (alg : HashAlg) (total : Nat) : List Byte :=
  if littleEndian alg then tole (total * 8) (lenField alg) else tobe (total * 8) (lenField alg)

theorem pad_eq (alg : HashAlg) (total : Nat) :
    pad alg total = 0x80 :: (List.replicate (padZeros alg total) 0 ++ lenBytes alg total) := rfl

@[simp] theorem length_lenBytes (alg : HashAlg) (total : Nat) : (lenBytes alg total).length = lenField alg := by
  rw [lenBytes]
  split
  · exact length_tole _ _
  · exact length_tobe _ _

theorem length_pad (alg : HashAlg) (total : Nat) : (pad alg total).length = padZeros alg total + lenField alg + 1 := by
  simp [pad_eq]

theorem padZeros_eq (alg : HashAlg) (total : Nat) : (padZeros alg total : Int) =
    ((blockSize alg : Int) - lenField alg - 1 - total) % blockSize alg :=
  Int.toNat_of_nonneg (Int.emod_nonneg _ (by have := blockSize_pos alg; omega))

theorem padZeros_lt (alg : HashAlg) (total : Nat) : padZeros alg total < blockSize alg := by
  have hlt := Int.emod_lt_of_pos ((blockSize alg : Int) - lenField alg - 1 - total)
    (Int.natCast_pos.2 (blockSize_pos alg))
  rw [← padZeros_eq] at hlt
  exact Int.ofNat_lt.1 hlt

/-- The padding ends a block. -/
theorem pad_fills_block (alg : HashAlg) (total : Nat) : (total + (pad alg total).length) % blockSize alg = 0 := by
  apply Nat.mod_eq_zero_of_dvd
  have hsub : (blockSize alg : Int) ∣ (blockSize alg - lenField alg - 1 - total) - padZeros alg total := by
    rw [padZeros_eq]
    exact Int.dvd_self_sub_emod
  have hsum : ((total + (pad alg total).length : Nat) : Int) =
      blockSize alg - ((blockSize alg - lenField alg - 1 - total) - padZeros alg total) := by
    rw [length_pad]
    push_cast
    ring
  rw [← Int.natCast_dvd_natCast, hsum]
  exact Int.dvd_sub (Int.dvd_refl _) hsub

/-- The value of a little-endian string is the value it was made of. -/
theorem le_tole {v len : Nat} (h : v < 256 ^ len) : le (tole v len) = v := by
  induction len generalizing v with
  | zero => simp_all [tole, le]
  | succ len ih =>
    have hdiv : v / 256 < 256 ^ len := Nat.div_lt_of_lt_mul (by rwa [Nat.pow_succ'] at h)
    rw [tole, le, ih hdiv, BitVec.toNat_ofNat]
    exact Nat.mod_add_div v 256

/-- The length field holds the bit length of every message below the length limit. -/
theorem lenBytes_value (alg : HashAlg) {total : Nat} (h : total < 2 ^ 61) :
    (if alg = .rmd160 then le (lenBytes alg total) else be (lenBytes alg total)) = 8 * total := by
  have hfit : total * 8 < 256 ^ lenField alg :=
    calc total * 8 < 256 ^ 8 := by omega
      _ ≤ 256 ^ lenField alg := Nat.pow_le_pow_right (by decide) (by cases alg <;> decide)
  cases alg with
  | rmd160 => exact (le_tole hfit).trans (Nat.mul_comm _ _)
  | sha256 | sha512 | sha1 => exact (be_tobe hfit).trans (Nat.mul_comm _ _)

/-- Settles O57: the padding by its count of zeros, the hash commands by their equations. -/
theorem hashCommandsComplete : Obligations.HashCommandsComplete := by
  refine ⟨rfl, rfl, rfl, fun alg total h => ?_, fun s hs => ⟨fun alg => ?_, fun off len => ?_, fun off ha hm => ?_,
    fun off ha hm halg => ?_, fun alg off len => ?_, fun off ha hm => ?_⟩⟩
  · have hzeros := padZeros_lt alg total
    have hlen := length_pad alg total
    exact ⟨pad_fills_block alg total, by omega, by omega, padZeros alg total, lenBytes alg total, hzeros, pad_eq alg total,
      length_lenBytes alg total, lenBytes_value alg h⟩
  · rw [exec_hinit, pad128_nil]
  · exact ⟨raises_hupdate_range, raises_hupdate_len, exec_hupdate⟩
  · have hdigest := digestCommand_hdigest s off
    exact ⟨hdigest.outOfRange ⟨ha, hm⟩, hdigest.result hs (length_finalize _) ⟨ha, hm⟩⟩
  · have h256 := digestCommand_hdigestH256 s off
    have h160 := digestCommand_hdigestH160 s off
    exact ⟨h256.outOfRange ⟨⟨ha, hm⟩, halg⟩, h160.outOfRange ⟨⟨ha, hm⟩, halg⟩,
      h256.result hs (length_hash _ _) ⟨⟨ha, hm⟩, halg⟩, h160.result hs (length_hash _ _) ⟨⟨ha, hm⟩, halg⟩⟩
  · exact ⟨raises_hmacinit, fun hfit => ⟨_, exec_hmacinit hfit, rfl, hlen_absorbBytes_padBlock alg _,
      npend_absorbBytes_padBlock alg _, take_pad128_blockKey alg _⟩⟩
  · have hfinal := digestCommand_hmacfinal s off
    exact ⟨hfinal.outOfRange ⟨ha, hm⟩, hfinal.result hs (length_hash _ _) ⟨ha, hm⟩⟩

end Sys2Proof.Machine

/-! ## The commands that move data (46_move.md) -/

namespace Sys2Proof.Machine

/-- A command whose rule makes no test completes with the writes of the rule. -/
theorem exec_of_untested_rule {i : Instr} {s t : State} (h : exec i s = command i s (.ok t)) (hw : i.wellFormed = true) :
    exec i s = .next t :=
  h.trans (command_ok hw rfl)

/-- `LDI` writes its byte with zeros above it (46_move.md R243). -/
theorem exec_ldi (s : State) (rd : RIdx) (imm : Byte) : exec (.ldi rd imm) s = .next (s.setR rd (imm.setWidth 256)) := by
  rw [← BitVec.ofNat_toNat]
  exact exec_of_untested_rule rfl rfl

/-- `LDC` loads the word that holds the value of the constant (R246). -/
theorem exec_ldc {s : State} {rd : RIdx} {c : CurveConst} {v : Word} (hv : BitVec.ofNat 256 (constValue c) = v) :
    exec (.ldc rd c) s = .next (s.setR rd v) := by
  rw [← hv]
  exact exec_of_untested_rule rfl rfl

/-- Settles O23: no rule of these commands makes a test. -/
theorem plainMovesComplete : Obligations.PlainMovesComplete := by
  refine fun s => ⟨?nop, fun rd ra => ?mov, exec_ldi s, ?p, ?n, ?gx, ?gy, ?beta, ?lambda, ?sqrtExp, ?halfN,
    fun ad aa => ?pmov, fun ad => ?pldg, fun ad => ?pinf, fun jd ja => ?jmov⟩
  case nop | mov | pmov | pldg | pinf | jmov => exact exec_of_untested_rule rfl rfl
  case p | n | gx | gy | beta | lambda | sqrtExp | halfN => exact fun rd => exec_ldc rfl

/-- The register form of a point made of two registers has their words as coordinates. -/
theorem ofPt_natR (s : State) (rx ry : RIdx) :
    APoint.ofPt (.fin (s.natR rx) (s.natR ry)) = { x := s.getR rx, y := s.getR ry, inf := false } := by
  simp only [APoint.ofPt, State.natR, BitVec.ofNat_toNat, BitVec.setWidth_eq]

/-- Settles O25: two field operands for `PSET`, a finite register for `PGETX` and `PGETY`. -/
theorem coordinateMoves : Obligations.CoordinateMoves := by
  refine fun s => ⟨fun ad rx ry hx hy => ?_, fun ad rx ry h => command_two_operands_range rfl h, fun rd aa h => ?_,
    fun rd aa h => ?_⟩
  · exact command_two_operands_ok rfl hx hy (by rw [ofPt_natR])
  · have hok := finiteOperand_of_finite h
    exact ⟨command_ok rfl (by rw [hok, ok_bind]), command_ok rfl (by rw [hok, ok_bind])⟩
  · have herr := finiteOperand_of_inf h
    exact ⟨command_error rfl (by rw [herr, error_bind]), command_error rfl (by rw [herr, error_bind])⟩

/-! ## Integers in DBUF (R244, R245) -/

/-- The positional value of `len` bytes of DBUF: the first byte has the highest power (00_scope.md R12). -/
def Memory.beSum (m : Memory) (off len : Nat) : Nat :=
  ∑ k ∈ Finset.range len, (m.read (off + k)).toNat * 256 ^ (len - 1 - k)

/-- The first byte stands above the value of the bytes after it. -/
theorem Memory.beSum_succ (m : Memory) (off len : Nat) :
    m.beSum off (len + 1) = (m.read off).toNat * 256 ^ len + m.beSum (off + 1) len := by
  have htail (k : Nat) : (m.read (off + (k + 1))).toNat * 256 ^ (len + 1 - 1 - (k + 1)) =
      (m.read (off + 1 + k)).toNat * 256 ^ (len - 1 - k) := by
    rw [show off + (k + 1) = off + 1 + k by omega, show len + 1 - 1 - (k + 1) = len - 1 - k by omega]
  rw [beSum, Finset.sum_range_succ', Finset.sum_congr rfl fun k _ => htail k, Nat.add_comm]
  rfl

/-- Reading on from `acc`, bytes of DBUF append their positional value. -/
theorem foldl_readBytes (m : Memory) (off len acc : Nat) :
    (m.readBytes off len).foldl (fun acc b => acc * 256 + b.toNat) acc = acc * 256 ^ len + m.beSum off len := by
  induction len generalizing off acc with
  | zero => simp [Memory.readBytes, Memory.beSum]
  | succ len ih =>
    rw [Memory.readBytes, List.foldl_cons, ih, Memory.beSum_succ]
    ring

theorem be_readBytes (m : Memory) (off len : Nat) : be (m.readBytes off len) = m.beSum off len := by
  rw [be, foldl_readBytes, Nat.zero_mul, Nat.zero_add]

/-- Byte `k` of a big-endian string is the digit of weight `256 ^ (len - 1 - k)`. -/
theorem toNat_tobe_getElem (v : Nat) {len k : Nat} (h : k < (tobe v len).length) :
    (tobe v len)[k].toNat = v / 256 ^ (len - 1 - k) % 256 := by
  induction len generalizing k with
  | zero => exact absurd h (Nat.not_lt_zero k)
  | succ len ih =>
    cases k with
    | zero => exact BitVec.toNat_ofNat ..
    | succ k =>
      rw [show len + 1 - 1 - (k + 1) = len - 1 - k by omega]
      exact ih (Nat.lt_of_succ_lt_succ h)

section LoadStore
variable {s : State} {r : RIdx} {off : Off} {len : Byte} (hlen : len.toNat ≤ 32)
include hlen

theorem ldbe_wellFormed (rd : RIdx) (off : Off) : (Instr.ldbe rd off len).wellFormed = true := by
  have hl : intLenOk len = true := decide_eq_true hlen
  simp [Instr.wellFormed, Instr.check, hl]

theorem stbe_wellFormed (rs : RIdx) (off : Off) : (Instr.stbe rs off len).wellFormed = true := by
  have hl : intLenOk len = true := decide_eq_true hlen
  simp [Instr.wellFormed, Instr.check, hl]

theorem exec_ldbe (h : off.toNat + len.toNat ≤ 512) :
    exec (.ldbe r off len) s = .next (s.setNatR r (s.dbuf.beSum off.toNat len.toNat)) :=
  command_ok (ldbe_wellFormed hlen r off) (by rw [bufOperand_of_le h, ok_bind, State.memRead, be_readBytes])

theorem raises_ldbe_buf (h : 512 < off.toNat + len.toNat) : Raises (.ldbe r off len) s .bufRange :=
  command_error (ldbe_wellFormed hlen r off) (by rw [bufOperand_of_lt h, error_bind])

theorem raises_stbe_buf (h : 512 < off.toNat + len.toNat) : Raises (.stbe r off len) s .bufRange :=
  command_error (stbe_wellFormed hlen r off) (by rw [checkBuf_of_lt h, error_bind])

theorem raises_stbe_range (h : off.toNat + len.toNat ≤ 512) (hv : 256 ^ len.toNat ≤ s.natR r) :
    Raises (.stbe r off len) s .range :=
  command_error (stbe_wellFormed hlen r off)
    (by rw [checkBuf_of_le h, ok_bind, require_false (Nat.not_lt.2 hv), error_bind])

theorem exec_stbe (h : off.toNat + len.toNat ≤ 512) (hv : s.natR r < 256 ^ len.toNat) :
    exec (.stbe r off len) s = .next (s.memWrite off.toNat (tobe (s.natR r) len.toNat)) :=
  command_ok (stbe_wellFormed hlen r off) (by rw [checkBuf_of_le h, ok_bind, require_true hv, ok_bind])

end LoadStore

/-- Settles O24: `LDBE` and `STBE` by their ends, the loaded and the stored bytes by their positions. -/
theorem integerLoadAndStore : Obligations.IntegerLoadAndStore := by
  refine fun s rd off len hlen => ⟨exec_ldbe hlen, fun h => ⟨raises_ldbe_buf hlen h, raises_stbe_buf hlen h⟩,
    raises_stbe_range hlen, fun h hv hwf => ⟨_, exec_stbe hlen h hv, fun k hk => ?_, fun addr ha => ?_⟩⟩
  · have hk' : k < (tobe (s.natR rd) len.toNat).length := hk.trans_eq (length_tobe _ _).symm
    rw [Memory.read_writeBytes_inside hwf (by rwa [length_tobe]) hk', toNat_tobe_getElem]
  · exact Memory.read_writeBytes_outside _ (by rwa [length_tobe])

end Sys2Proof.Machine

/-! ## The fault record (60_exceptions.md R262, R263, R265) -/

namespace Sys2Proof.Machine

theorem writeCtrl_of_no_srst {w : Word32} (h : w.getLsbD 1 = false) (s : State) :
    writeCtrl w s = if w.getLsbD 0 then clearFault s else s := if_neg (Bool.eq_false_iff.1 h)

/-- Settles O9: the step is the write to `CTRL`, which clears the record, resets the block, or does nothing. -/
theorem clearErrClearsOnlyTheRecord : Obligations.ClearErrClearsOnlyTheRecord := by
  intro s w rest h
  rw [step_write_ctrl h]
  constructor
  · intro hsrst
    rw [writeCtrl_of_no_srst hsrst, clearFault]
  · intro hsrst
    rw [writeCtrl_srst hsrst]
    exact ⟨_, rfl, rfl, rfl, rfl⟩

/-- Settles O6: the command completed with the record as it was, without a fault, or its end is fault entry. -/
theorem faultEntryWritesOnlyTheRecord : Obligations.FaultEntryWritesOnlyTheRecord := by
  intro i s t herr ht hfault
  obtain ⟨u, hu, ⟨hkeep, -⟩ | ⟨e, rfl⟩⟩ := everyCommandCompletesOrFaults i s
  · cases hu.symm.trans ht
    rw [hkeep, herr] at hfault
    cases hfault
  · cases hu.symm.trans ht
    exact ⟨⟨e, rfl⟩, rfl, rfl, rfl, rfl, rfl, rfl, rfl, rfl, rfl, rfl, rfl⟩

theorem issue_of_err {s : State} (w : Word32) (h : s.err = true) : issue w s = .next s := if_pos h

theorem issue_of_illegal {s : State} {w : Word32} {reason : Illegal} (herr : s.err = false)
    (hd : decode w = .error reason) : issue w s = .next (faultEntry .illegalCmd w s) := by
  rw [issue, herr, hd]
  rfl

theorem writeLoc_of_ne_cmd {loc : Loc} (h : loc ≠ .cmd) (s : State) (w : Word32) :
    writeLoc s w loc = .next (if loc = .ctrl then writeCtrl w s else writeData s w loc) := by
  rw [writeLoc, if_neg h, apply_ite Host.Outcome.next]

/-- Settles O5: a legal word is the word of its command, which keeps the record or ends by fault entry. -/
theorem commandIssueFollowsItsRule : Obligations.CommandIssueFollowsItsRule := by
  refine fun s w => ⟨issue_of_err w, fun herr _ => issue_of_illegal herr, fun herr i hd => ?_,
    fun loc hloc => writeLoc_of_ne_cmd hloc s w⟩
  have hissue := issue_of_decode herr hd
  obtain ⟨-, hword⟩ := encodeInvertsDecode w i hd
  obtain ⟨t, ht, ⟨hkeep, hcode, hcmd, -⟩ | ⟨e, rfl⟩⟩ := everyCommandCompletesOrFaults i s
  · exact ⟨hissue, .inr ⟨t, hissue.trans ht, hkeep.trans herr, hcode, hcmd⟩⟩
  · exact ⟨hissue, .inl ⟨e, by rw [hissue, ht, hword]⟩⟩

end Sys2Proof.Machine

/-! ## The fault codes a command may raise (60_exceptions.md R261) -/

namespace Sys2Proof.Machine

/-- The numbers of R261 count the codes in their order, from 1. -/
theorem ErrCode.ofNat_code (e : ErrCode) : ErrCode.ofNat (e.code.toNat - 1) = e := by
  cases e <;> rfl

theorem ErrCode.code_injective : Function.Injective ErrCode.code :=
  Function.LeftInverse.injective (g := fun b : Byte => ErrCode.ofNat (b.toNat - 1)) ErrCode.ofNat_code

/-! ### The faults of an operand or a test -/

/-- Every fault that an operand, a test or a computation of a rule raises is one of `es`. -/
def RaisesOnly {α : Type} (es : List ErrCode) (m : Except ErrCode α) : Prop := ∀ e, m = .error e → e ∈ es

section Operands
variable {α : Type} {es : List ErrCode} {s : State}

theorem raisesOnly_ok (x : α) : RaisesOnly es (.ok x) := by
  rintro _ ⟨⟩

theorem raisesOnly_error {e : ErrCode} (h : e ∈ es) : RaisesOnly es (.error e : Except ErrCode α) := by
  rintro _ ⟨⟩
  exact h

theorem raisesOnly_ite {c : Prop} [Decidable c] {m m' : Except ErrCode α} (h : RaisesOnly es m) (h' : RaisesOnly es m') :
    RaisesOnly es (if c then m else m') := by
  split
  · exact h
  · exact h'

theorem raisesOnly_bind {β : Type} {m : Except ErrCode α} {f : α → Except ErrCode β} (hm : RaisesOnly es m)
    (hf : ∀ x, RaisesOnly es (f x)) : RaisesOnly es (m >>= f) := by
  intro e he
  rcases bind_eq_error.1 he with h | ⟨x, -, h⟩
  · exact hm e h
  · exact hf x e h

theorem raisesOnly_require (c : Prop) [Decidable c] {e : ErrCode} (h : e ∈ es) : RaisesOnly es (require c e) :=
  raisesOnly_ite (raisesOnly_ok _) (raisesOnly_error h)

/-- The range test of a field or an order operand, by its modulus. -/
theorem raisesOnly_operandBelow (m : Nat) (i : RIdx) (h : .range ∈ es) : RaisesOnly es (operandBelow m s i) :=
  raisesOnly_ite (raisesOnly_ok _) (raisesOnly_error h)

theorem raisesOnly_keyOperand (i : RIdx) (h : .range ∈ es) : RaisesOnly es (keyOperand s i) :=
  raisesOnly_ite (raisesOnly_ok _) (raisesOnly_error h)

theorem raisesOnly_coordOperand (i : AIdx) (h : .range ∈ es) : RaisesOnly es (coordOperand s i) :=
  raisesOnly_ite (raisesOnly_ok _) (raisesOnly_ite (raisesOnly_error h) (raisesOnly_ok _))

theorem raisesOnly_jacOperand (i : JIdx) (h : .range ∈ es) : RaisesOnly es (jacOperand s i) :=
  raisesOnly_ite (raisesOnly_ok _) (raisesOnly_error h)

theorem raisesOnly_pointOperand (i : AIdx) (hr : .range ∈ es) (hp : .invalidPoint ∈ es) :
    RaisesOnly es (pointOperand s i) :=
  raisesOnly_ite (raisesOnly_ok _)
    (raisesOnly_ite (raisesOnly_error hr) (raisesOnly_ite (raisesOnly_ok _) (raisesOnly_error hp)))

theorem raisesOnly_finiteOperand (i : AIdx) (h : .infinity ∈ es) : RaisesOnly es (finiteOperand s i) :=
  raisesOnly_ite (raisesOnly_error h) (raisesOnly_ok _)

theorem raisesOnly_bufOperand (off len : Nat) (h : .bufRange ∈ es) : RaisesOnly es (bufOperand s off len) :=
  raisesOnly_bind (raisesOnly_require _ h) fun _ => raisesOnly_ok _

theorem raisesOnly_absorb (hc : HashCtx) (data : List Byte) (h : .hashLen ∈ es) : RaisesOnly es (absorb hc data) :=
  raisesOnly_ite (raisesOnly_error h) (raisesOnly_ok _)

theorem raisesOnly_fromX (x : Nat) (odd : Bool) (hr : .range ∈ es) (hp : .invalidPoint ∈ es) :
    RaisesOnly es (fromX x odd) := by
  refine raisesOnly_ite ?_ (raisesOnly_error hr)
  cases liftX x odd with
  | none => exact raisesOnly_error hp
  | some q => exact raisesOnly_ok q

theorem raisesOnly_sec1Decode (bytes : List Byte) (hf : .pointFormat ∈ es) (hr : .range ∈ es) (hp : .invalidPoint ∈ es) :
    RaisesOnly es (sec1Decode bytes) := by
  by_cases hc : Sec1Compressed bytes
  · rw [sec1Decode_of_compressed hc]
    exact raisesOnly_fromX _ _ hr hp
  · by_cases hfull : Sec1Full bytes
    · rw [sec1Decode_of_full hfull]
      exact raisesOnly_ite (raisesOnly_ok _) (raisesOnly_error hr)
    · rw [sec1Decode_of_bad_format hc hfull]
      exact raisesOnly_error hf

/-- One candidate nonce is rejected for a reason of R176. -/
theorem raisesOnly_tryNonce (key z : Nat) (lowS : Bool) (k : Nat) :
    RaisesOnly [.kRange, .kInfinity, .kZeroR, .kZeroS] (tryNonce key z lowS k) := by
  by_cases hout : k ≤ 1 ∨ Config.n - 1 ≤ k
  · rw [tryNonce_of_out key z lowS hout]
    exact raisesOnly_error (by simp)
  · obtain ⟨h2, hk⟩ : 2 ≤ k ∧ k < Config.n - 1 := by omega
    cases hR : smul k Pt.gen with
    | inf =>
      rw [tryNonce, if_neg hout, hR]
      exact raisesOnly_error (by simp)
    | fin x y =>
      rw [tryNonce_of_fin key z lowS h2 hk hR]
      exact raisesOnly_ite (raisesOnly_error (by simp))
        (raisesOnly_ite (raisesOnly_error (by simp)) (raisesOnly_ok _))

/-- A search names no candidate's reason: it only ends without a nonce (R176). -/
theorem raisesOnly_signTable (key z : Nat) (lowS : Bool) (ks : List Nat) (h : .nonceExhausted ∈ es) :
    RaisesOnly es (signTable key z lowS ks) := by
  induction ks with
  | nil => exact raisesOnly_error h
  | cons k ks ih =>
    cases hk : tryNonce key z lowS k with
    | ok sig =>
      rw [signTable_of_ok ks hk]
      exact raisesOnly_ok sig
    | error e => rwa [signTable_of_error ks hk]

/-- `SIGN` raises the reason of its one nonce, or that the search ended without one. -/
theorem raisesOnly_signWith (key z : Nat) (rd rmsg rkey : RIdx) (lowS : Bool) (src : NonceSrc) :
    RaisesOnly (mayRaise (.sign rd rmsg rkey lowS src)) (signWith s key z lowS src) := by
  cases src with
  | drbg =>
    rw [signWith, signDrbg_eq_signTable]
    exact raisesOnly_signTable key z lowS _ (by simp [mayRaise])
  | fixed rc => exact fun e he => List.mem_cons_of_mem _ (raisesOnly_tryNonce key z lowS (s.natR rc) e he)
  | table cnt => exact raisesOnly_signTable key z lowS _ (by simp [mayRaise])

end Operands

/-! ### The faults of a rule -/

/-- A rule from `s` goes through with the error bit as it was, or raises a fault of `es`. -/
def KeepsErrOrRaises (es : List ErrCode) (s : State) (rule : Except ErrCode State) : Prop :=
  (∃ t, rule = .ok t ∧ t.err = s.err) ∨ ∃ e ∈ es, rule = .error e

theorem writes_keepErr {es : List ErrCode} {s t : State} (h : t.err = s.err) : KeepsErrOrRaises es s (.ok t) :=
  .inl ⟨t, rfl, h⟩

/-- An operand or a test before the rest of a rule adds its own faults. -/
theorem RaisesOnly.andThen {α : Type} {es : List ErrCode} {s : State} {m : Except ErrCode α}
    {f : α → Except ErrCode State} (hm : RaisesOnly es m) (hf : ∀ x, KeepsErrOrRaises es s (f x)) :
    KeepsErrOrRaises es s (m >>= f) := by
  cases m with
  | ok x => exact hf x
  | error e => exact .inr ⟨e, hm e rfl, rfl⟩

/-- The command runs a rule that raises only the faults listed for the command. -/
def RunsListedRule (i : Instr) (s : State) (o : Host.Outcome State Fault Refusal) : Prop :=
  ∃ rule, o = command i s rule ∧ KeepsErrOrRaises (mayRaise i) s rule

theorem command_runsListedRule {i : Instr} {s : State} {rule : Except ErrCode State}
    (h : KeepsErrOrRaises (mayRaise i) s rule) : RunsListedRule i s (command i s rule) := ⟨rule, rfl, h⟩

/-- Every command is its rule run by `command`, and the rule raises only listed faults. The cases are grouped by the operands
and tests that a rule starts with. -/
theorem exec_runsListedRule (i : Instr) (s : State) : RunsListedRule i s (exec i s) := by
  cases i
  case nop | mov | ldi | ldc | pmov | pldg | pinf | jmov | redp | redn | wnaf | truncn | hinit =>
    refine command_runsListedRule (writes_keepErr ?_)
    rfl
  -- residues modulo `p` and `n`
  case pset | addp | subp | mulp | muln =>
    exact command_runsListedRule ((raisesOnly_operandBelow _ _ (.head _)).andThen fun _ =>
      (raisesOnly_operandBelow _ _ (.head _)).andThen fun _ => writes_keepErr rfl)
  case powp | glvsplit =>
    exact command_runsListedRule ((raisesOnly_operandBelow _ _ (.head _)).andThen fun _ => writes_keepErr rfl)
  case invp | invn =>
    exact command_runsListedRule ((raisesOnly_operandBelow _ _ (.head _)).andThen fun _ =>
      (raisesOnly_require _ (.tail _ (.head _))).andThen fun _ => writes_keepErr rfl)
  case sqrtp =>
    refine command_runsListedRule ((raisesOnly_operandBelow _ _ (.head _)).andThen fun x => ?_)
    cases sqrtp x with
    | none => exact writes_keepErr rfl
    | some t => exact writes_keepErr rfl
  -- points
  case pgetx | pgety | pvalid =>
    exact command_runsListedRule ((raisesOnly_finiteOperand _ (.head _)).andThen fun _ => writes_keepErr rfl)
  case padd | peq =>
    exact command_runsListedRule ((raisesOnly_pointOperand _ (.head _) (.tail _ (.head _))).andThen fun _ =>
      (raisesOnly_pointOperand _ (.head _) (.tail _ (.head _))).andThen fun _ => writes_keepErr rfl)
  case pdbl | pneg | pendo =>
    exact command_runsListedRule ((raisesOnly_pointOperand _ (.head _) (.tail _ (.head _))).andThen fun _ =>
      writes_keepErr rfl)
  case pmul =>
    exact command_runsListedRule ((raisesOnly_pointOperand _ (.head _) (.tail _ (.head _))).andThen fun _ =>
      writes_keepErr (touchTable_err ..))
  case pmuladd =>
    exact command_runsListedRule ((raisesOnly_pointOperand _ (.head _) (.tail _ (.head _))).andThen fun _ =>
      (raisesOnly_pointOperand _ (.head _) (.tail _ (.head _))).andThen fun _ => writes_keepErr (touchTables_err ..))
  case pfromx =>
    exact command_runsListedRule ((raisesOnly_fromX _ _ (.head _) (.tail _ (.head _))).andThen fun _ =>
      writes_keepErr rfl)
  case jfroma =>
    exact command_runsListedRule ((raisesOnly_coordOperand _ (.head _)).andThen fun _ => writes_keepErr rfl)
  case jtoa | jdbl | jneg =>
    exact command_runsListedRule ((raisesOnly_jacOperand _ (.head _)).andThen fun _ => writes_keepErr rfl)
  case jadd =>
    exact command_runsListedRule ((raisesOnly_jacOperand _ (.head _)).andThen fun _ =>
      (raisesOnly_jacOperand _ (.head _)).andThen fun _ => writes_keepErr rfl)
  -- ECDSA
  case drbgk =>
    exact command_runsListedRule ((raisesOnly_keyOperand _ (.head _)).andThen fun _ => writes_keepErr rfl)
  case sign rd rmsg rkey lowS src =>
    have hr : .range ∈ mayRaise (.sign rd rmsg rkey lowS src) := by cases src <;> exact .head _
    exact command_runsListedRule ((raisesOnly_keyOperand _ hr).andThen fun _ =>
      (raisesOnly_signWith _ _ rd rmsg rkey lowS src).andThen fun _ => writes_keepErr rfl)
  case verify =>
    exact command_runsListedRule ((raisesOnly_finiteOperand _ (.head _)).andThen fun _ =>
      (raisesOnly_pointOperand _ (.tail _ (.head _)) (.tail _ (.tail _ (.head _)))).andThen fun _ => writes_keepErr rfl)
  -- DBUF and the hash unit
  case ldbe | hmacinit =>
    exact command_runsListedRule ((raisesOnly_bufOperand _ _ (.head _)).andThen fun _ => writes_keepErr rfl)
  case stbe =>
    exact command_runsListedRule ((raisesOnly_require _ (.head _)).andThen fun _ =>
      (raisesOnly_require _ (.tail _ (.head _))).andThen fun _ => writes_keepErr rfl)
  case pdec =>
    exact command_runsListedRule ((raisesOnly_bufOperand _ _ (.head _)).andThen fun _ =>
      (raisesOnly_sec1Decode _ (.tail _ (.head _)) (.tail _ (.tail _ (.head _)))
        (.tail _ (.tail _ (.tail _ (.head _))))).andThen fun _ => writes_keepErr rfl)
  case penc =>
    exact command_runsListedRule ((raisesOnly_require _ (.head _)).andThen fun _ =>
      (raisesOnly_finiteOperand _ (.tail _ (.head _))).andThen fun _ =>
      (raisesOnly_require _ (.tail _ (.tail _ (.head _)))).andThen fun _ => writes_keepErr rfl)
  case hupdate =>
    exact command_runsListedRule ((raisesOnly_bufOperand _ _ (.head _)).andThen fun _ =>
      (raisesOnly_require _ (.tail _ (.head _))).andThen fun _ =>
      (raisesOnly_absorb _ _ (.tail _ (.tail _ (.head _)))).andThen fun _ => writes_keepErr rfl)
  case hdigest | hmacfinal =>
    exact command_runsListedRule ((raisesOnly_require _ (.head _)).andThen fun _ =>
      (raisesOnly_require _ (.tail _ (.head _))).andThen fun _ => writes_keepErr rfl)
  case hdigestH256 | hdigestH160 =>
    exact command_runsListedRule ((raisesOnly_require _ (.head _)).andThen fun _ =>
      (raisesOnly_require _ (.head _)).andThen fun _ =>
      (raisesOnly_require _ (.tail _ (.head _))).andThen fun _ => writes_keepErr rfl)

/-- Fault entry tells its code: two fault entries in one state are of the same fault. -/
theorem faultEntry_code_inj {e e' : ErrCode} {w : Word32} {s : State} (h : faultEntry e w s = faultEntry e' w s) : e = e' :=
  ErrCode.code_injective (congrArg State.errcode h)

theorem mem_mayRaise_of_raises {i : Instr} {s : State} {e : ErrCode} (hw : i.wellFormed = true) (herr : s.err = false)
    (h : Raises i s e) : e ∈ mayRaise i := by
  obtain ⟨rule, hrule, ⟨t, hok, hkeep⟩ | ⟨e', hmem, hraise⟩⟩ := exec_runsListedRule i s
  · have ht : t = faultEntry e (encode i) s :=
      Host.Outcome.next.inj ((hrule.trans (command_ok hw hok)).symm.trans h)
    rw [ht, faultEntry_err, herr] at hkeep
    cases hkeep
  · have hsame : faultEntry e' (encode i) s = faultEntry e (encode i) s :=
      Host.Outcome.next.inj ((hrule.trans (command_error hw hraise)).symm.trans h)
    exact faultEntry_code_inj hsame ▸ hmem

/-- Settles O8: the faults of a rule are listed, and `command` runs no rule of an ill-formed command. -/
theorem raisedFaultsAreTheListedOnes : Obligations.RaisedFaultsAreTheListedOnes := by
  refine ⟨fun i s e => mem_mayRaise_of_raises, fun i s hw => ?_, rfl⟩
  obtain ⟨rule, hrule, -⟩ := exec_runsListedRule i s
  exact hrule.trans (command_illegal hw)

end Sys2Proof.Machine
